-- ==== Sys2Proof/Word.lean ====
section
/-! DEFINITION. The word and byte types (spec 00 R6, R9, R10). -/

namespace Sys2Proof

/-- "an unsigned integer of exactly 32 bits" (00 R6, R10); bit 0 is the least significant bit (R9). -/
abbrev Word := BitVec 32

/-- A byte, bits 7 (most significant) down to 0 (00 R9). -/
abbrev Byte := BitVec 8

/-- A block: 512 bits held as 64 bytes (00 R6). -/
abbrev Block := Vector Byte 64

/-- The HashState, `H[0..7]` (00 R6, 10 R20). -/
abbrev HashState := Vector Word 8

/-- The message schedule, `W[0..63]` (00 R6, 10 R30). -/
abbrev Schedule := Vector Word 64

end Sys2Proof
end

