-- ==== Sys2Proof/Syntax.lean ====
section
/-! DEFINITION. The commands: one constructor per row of spec/opcode_table.json (30 R77). -/

namespace Sys2Proof

/-- A command of CMD-1. The data operands A, B and C are not part of a command: they come from the data ports
(30 R74). -/
inductive Instr where
  /-- NOP (44 R221). -/
  | nop
  /-- INIT (44 R222). -/
  | init
  /-- PUSH `n`, `n = CNT + 1` bytes (30 R72, 41 R150). -/
  | push (n : Nat)
  /-- FINAL (41 R151). -/
  | final
  /-- ROTR by `sh` (40 R115). -/
  | rotr (sh : Nat)
  /-- SHR by `sh` (40 R116). -/
  | shr (sh : Nat)
  /-- AND (40 R117). -/
  | and
  /-- OR (40 R118). -/
  | or
  /-- XOR (40 R119). -/
  | xor
  /-- NOT (40 R120). -/
  | not
  /-- ADD (40 R121). -/
  | add
  /-- SSIG0 (40 R122). -/
  | ssig0
  /-- SSIG1 (40 R123). -/
  | ssig1
  /-- BSIG0 (40 R124). -/
  | bsig0
  /-- BSIG1 (40 R125). -/
  | bsig1
  /-- CH (40 R126). -/
  | ch
  /-- MAJ (40 R127). -/
  | maj
  deriving DecidableEq, Repr

end Sys2Proof
end

