-- ==== Sys2Proof/WellFormed.lean ====
section
/-! DEFINITION. Which terms of `Instr` stand for commands (30 R74): "A PUSH of zero bytes cannot be encoded", "A shift
by 32 or more cannot be encoded". -/

namespace Sys2Proof

/-- The PUSH byte count is "a value from 1 to 4" (30 R74). -/
def pushCountOk (n : Nat) : Bool := decide (1 ≤ n) && decide (n ≤ 4)

/-- The rotate or shift amount is "a value from 0 to 31" (30 R74). -/
def shiftAmountOk (sh : Nat) : Bool := decide (sh ≤ 31)

/-- The operand ranges that 30 R74 gives; every other command has no operand field. -/
def Instr.wf : Instr → Bool
  | .push n => pushCountOk n
  | .rotr sh => shiftAmountOk sh
  | .shr sh => shiftAmountOk sh
  | .nop | .init | .final | .and | .or | .xor | .not | .add
  | .ssig0 | .ssig1 | .bsig0 | .bsig1 | .ch | .maj => true

/-- The 13 ALU commands, format A (30 R73). -/
def Instr.isAlu : Instr → Bool
  | .rotr _ | .shr _ | .and | .or | .xor | .not | .add
  | .ssig0 | .ssig1 | .bsig0 | .bsig1 | .ch | .maj => true
  | .nop | .init | .push _ | .final => false

end Sys2Proof
end

