-- ==== Sys2Proof/Decode.lean ====
section
/-! DEFINITION. Decoding of command words (30 R79), the encoder (30 R71 to R76) and the match and mask table
(30 R77). -/

namespace Sys2Proof

/-! ## Fields -/

/-- `OPC = cmd[31:28]` (30 R70). -/
def opcField (w : Word) : BitVec 4 := w.extractLsb' 28 4

/-- `FN = cmd[27:24]` (30 R73). -/
def fnField (w : Word) : BitVec 4 := w.extractLsb' 24 4

/-- `SH = cmd[4:0]` (30 R73). -/
def shField (w : Word) : BitVec 5 := w.extractLsb' 0 5

/-- `CNT = cmd[1:0]` (30 R72). -/
def cntField (w : Word) : BitVec 2 := w.extractLsb' 0 2

/-- The reserved field of format N, `cmd[27:0]` (30 R71). -/
def reservedN (w : Word) : BitVec 28 := w.extractLsb' 0 28

/-- The reserved field of format P, `cmd[27:2]` (30 R72). -/
def reservedP (w : Word) : BitVec 26 := w.extractLsb' 2 26

/-- The reserved field of format A, `cmd[23:5]` (30 R73). -/
def reservedA (w : Word) : BitVec 19 := w.extractLsb' 5 19

/-! ## Decoder -/

/-- Why a word is illegal, in the words of 30 R78. The core records none of these: ERRCODE is the only information
(60 R250). -/
inductive Illegal where
  /-- "OPC in 0x5..0xF". -/
  | reservedOpc
  /-- "any non-zero bit in a reserved field of formats N, P or A". -/
  | reservedBits
  /-- "FN in {0x7, 0xE, 0xF}". -/
  | reservedFn
  /-- "SH ≠ 0 with an FN other than ROTR or SHR". -/
  | shiftNotAllowed
  deriving DecidableEq, Repr

/-- The decoder's answer: `Cmd | Illegal` (30 R79). -/
inductive Decoded where
  /-- The word is this command's. -/
  | instr (i : Instr)
  /-- The word is illegal. -/
  | illegal (why : Illegal)
  deriving DecidableEq, Repr

/-- A format N word whose reserved field must be 0 (30 R71). -/
def decodeN (w : Word) (i : Instr) : Decoded :=
  if reservedN w = 0 then .instr i else .illegal .reservedBits

/-- A function without a shift amount: SH must be 0 (30 R73). -/
def decodeNoShift (w : Word) (i : Instr) : Decoded :=
  if shField w = 0 then .instr i else .illegal .shiftNotAllowed

/-- The FN map (30 R76), for a word whose reserved bits are 0. -/
def decodeFn (w : Word) : Decoded :=
  match (fnField w).toNat with
  | 0x0 => .instr (.rotr (shField w).toNat)
  | 0x1 => .instr (.shr (shField w).toNat)
  | 0x2 => decodeNoShift w .and
  | 0x3 => decodeNoShift w .or
  | 0x4 => decodeNoShift w .xor
  | 0x5 => decodeNoShift w .not
  | 0x6 => decodeNoShift w .add
  | 0x8 => decodeNoShift w .ssig0
  | 0x9 => decodeNoShift w .ssig1
  | 0xA => decodeNoShift w .bsig0
  | 0xB => decodeNoShift w .bsig1
  | 0xC => decodeNoShift w .ch
  | 0xD => decodeNoShift w .maj
  | _ => .illegal .reservedFn

/-- `Decode` (30 R79), total on all words; the OPC map is 30 R75. -/
def decode (w : Word) : Decoded :=
  match (opcField w).toNat with
  | 0x0 => decodeN w .nop
  | 0x1 => decodeN w .init
  | 0x2 => if reservedP w = 0 then .instr (.push ((cntField w).toNat + 1)) else .illegal .reservedBits
  | 0x3 => decodeN w .final
  | 0x4 => if reservedA w = 0 then decodeFn w else .illegal .reservedBits
  | _ => .illegal .reservedOpc

/-- The command a decoder's answer holds, if any. -/
def Decoded.instr? : Decoded → Option Instr
  | .instr i => some i
  | .illegal _ => none

/-- The command the decoder reads from a table row's word: the low `nbits` bits of `w`, every bit above them 0. -/
def decodeTableWord (nbits w : Nat) : Option Instr :=
  (decode (BitVec.ofNat 32 (w % 2 ^ nbits))).instr?

/-! ## Encoder -/

/-- Format N (30 R71). -/
def encodeN (opc : BitVec 4) : Word := opc ++ (0 : BitVec 28)

/-- Format P (30 R72). -/
def encodeP (cnt : BitVec 2) : Word := (0x2 : BitVec 4) ++ (0 : BitVec 26) ++ cnt

/-- Format A (30 R73). -/
def encodeA (fn : BitVec 4) (sh : BitVec 5) : Word := (0x4 : BitVec 4) ++ fn ++ (0 : BitVec 19) ++ sh

/-- The word of a well-formed command (30 R75, R76). -/
def encode : Instr → Word
  | .nop => encodeN 0x0
  | .init => encodeN 0x1
  | .push n => encodeP (BitVec.ofNat 2 (n - 1))
  | .final => encodeN 0x3
  | .rotr sh => encodeA 0x0 (BitVec.ofNat 5 sh)
  | .shr sh => encodeA 0x1 (BitVec.ofNat 5 sh)
  | .and => encodeA 0x2 0
  | .or => encodeA 0x3 0
  | .xor => encodeA 0x4 0
  | .not => encodeA 0x5 0
  | .add => encodeA 0x6 0
  | .ssig0 => encodeA 0x8 0
  | .ssig1 => encodeA 0x9 0
  | .bsig0 => encodeA 0xA 0
  | .bsig1 => encodeA 0xB 0
  | .ch => encodeA 0xC 0
  | .maj => encodeA 0xD 0

/-! ## The match and mask table -/

/-- A row of 30 R77: "A word `w` encodes a command when `(w & mask) = match`". -/
structure OpcodeRow where
  mnemonic : String
  pattern : Word
  mask : Word
  deriving DecidableEq, Repr

/-- Whether the row matches the word (30 R77). -/
def OpcodeRow.hits (r : OpcodeRow) (w : Word) : Bool := w &&& r.mask == r.pattern

/-- The 17 rows of 30 R77, in its order. -/
def opcodeRows : List OpcodeRow :=
  [⟨"NOP",   0x00000000, 0xFFFFFFFF⟩, ⟨"INIT",  0x10000000, 0xFFFFFFFF⟩,
   ⟨"PUSH",  0x20000000, 0xFFFFFFFC⟩, ⟨"FINAL", 0x30000000, 0xFFFFFFFF⟩,
   ⟨"ROTR",  0x40000000, 0xFFFFFFE0⟩, ⟨"SHR",   0x41000000, 0xFFFFFFE0⟩,
   ⟨"AND",   0x42000000, 0xFFFFFFFF⟩, ⟨"OR",    0x43000000, 0xFFFFFFFF⟩,
   ⟨"XOR",   0x44000000, 0xFFFFFFFF⟩, ⟨"NOT",   0x45000000, 0xFFFFFFFF⟩,
   ⟨"ADD",   0x46000000, 0xFFFFFFFF⟩, ⟨"SSIG0", 0x48000000, 0xFFFFFFFF⟩,
   ⟨"SSIG1", 0x49000000, 0xFFFFFFFF⟩, ⟨"BSIG0", 0x4A000000, 0xFFFFFFFF⟩,
   ⟨"BSIG1", 0x4B000000, 0xFFFFFFFF⟩, ⟨"CH",    0x4C000000, 0xFFFFFFFF⟩,
   ⟨"MAJ",   0x4D000000, 0xFFFFFFFF⟩]

/-- The mnemonic of a command (30 R77, R80). -/
def Instr.mnemonic : Instr → String
  | .nop => "NOP"
  | .init => "INIT"
  | .push _ => "PUSH"
  | .final => "FINAL"
  | .rotr _ => "ROTR"
  | .shr _ => "SHR"
  | .and => "AND"
  | .or => "OR"
  | .xor => "XOR"
  | .not => "NOT"
  | .add => "ADD"
  | .ssig0 => "SSIG0"
  | .ssig1 => "SSIG1"
  | .bsig0 => "BSIG0"
  | .bsig1 => "BSIG1"
  | .ch => "CH"
  | .maj => "MAJ"

end Sys2Proof
end

