-- ==== Sys2Proof/Config.lean ====
section
/-! DEFINITION. The open parameters of the spec (00 R8) and the contents it leaves unspecified, as
constants without a body: no proof can see their values. Each is applied to a number that State's counter
`fresh` makes new for every use. -/

namespace Sys2Proof.Config

/-- `LAT_NOP` (00 R8): cycles from accepting a NOP to completing it. The instance's number and the whole state at
acceptance (the pending command included) are its arguments, since it "may differ from one instance of the command to
the next" and "may depend on the data". A `Nat`, so finite (44 R231). -/
opaque latNop {σ : Type} : Nat → σ → Nat

/-- `LAT_INIT` (00 R8); the arguments as for `latNop`. -/
opaque latInit {σ : Type} : Nat → σ → Nat

/-- `LAT_PUSH` (00 R8); the arguments as for `latNop`. -/
opaque latPush {σ : Type} : Nat → σ → Nat

/-- `LAT_FINAL` (00 R8); the arguments as for `latNop`. -/
opaque latFinal {σ : Type} : Nat → σ → Nat

/-- `LAT_ALU` (00 R8); the arguments as for `latNop`. -/
opaque latAlu {σ : Type} : Nat → σ → Nat

/-- DESIGN CHOICE (log 5): the latency of an accepted illegal word, which 00 R8 does not name; finite by 44 R231. -/
opaque latIllegal {σ : Type} : Nat → σ → Nat

/-- `T_RST_READY` (00 R8, 70 R281): cycles of BUSY after the first edge with `rst = 0`. -/
opaque tRstReady {σ : Type} : Nat → σ → Nat

/-- What `W[0..63]` holds after a block: "Their contents are unspecified" (43 R195, log 2). -/
opaque leftoverSchedule : Nat → Schedule

/-- What the working registers hold after a block, in the order a..h (43 R195, log 2). -/
opaque leftoverWorking : Nat → HashState

/-- What the index `t` holds after a block (10 R32, 93 I2, log 2). -/
opaque leftoverIndex : Nat → BitVec 6

end Sys2Proof.Config
end

