-- ==== Sys2Proof/Machine/Rom.lean ====
section
/-! DEFINITION. The two read-only constant arrays (10 R21, R22). -/

namespace Sys2Proof.Machine

/-- `IV[0..7]` (10 R21). -/
def iv : HashState :=
  #v[0x6a09e667, 0xbb67ae85, 0x3c6ef372, 0xa54ff53a, 0x510e527f, 0x9b05688c, 0x1f83d9ab, 0x5be0cd19]

/-- The table of 10 R22 as it is printed: row i holds `K[i]`, `K[i + 16]`, `K[i + 32]`, `K[i + 48]`. -/
def kTable : Vector (Vector Word 4) 16 :=
  #v[#v[0x428a2f98, 0xe49b69c1, 0x27b70a85, 0x19a4c116],
   #v[0x71374491, 0xefbe4786, 0x2e1b2138, 0x1e376c08],
   #v[0xb5c0fbcf, 0x0fc19dc6, 0x4d2c6dfc, 0x2748774c],
   #v[0xe9b5dba5, 0x240ca1cc, 0x53380d13, 0x34b0bcb5],
   #v[0x3956c25b, 0x2de92c6f, 0x650a7354, 0x391c0cb3],
   #v[0x59f111f1, 0x4a7484aa, 0x766a0abb, 0x4ed8aa4a],
   #v[0x923f82a4, 0x5cb0a9dc, 0x81c2c92e, 0x5b9cca4f],
   #v[0xab1c5ed5, 0x76f988da, 0x92722c85, 0x682e6ff3],
   #v[0xd807aa98, 0x983e5152, 0xa2bfe8a1, 0x748f82ee],
   #v[0x12835b01, 0xa831c66d, 0xa81a664b, 0x78a5636f],
   #v[0x243185be, 0xb00327c8, 0xc24b8b70, 0x84c87814],
   #v[0x550c7dc3, 0xbf597fc7, 0xc76c51a3, 0x8cc70208],
   #v[0x72be5d74, 0xc6e00bf3, 0xd192e819, 0x90befffa],
   #v[0x80deb1fe, 0xd5a79147, 0xd6990624, 0xa4506ceb],
   #v[0x9bdc06a7, 0x06ca6351, 0xf40e3585, 0xbef9a3f7],
   #v[0xc19bf174, 0x14292967, 0x106aa070, 0xc67178f2]]

/-- One column of the table: `K[16j..16j+15]` (10 R22). -/
def kColumn (j : Fin 4) : List Word := kTable.toList.map fun row => row[j]

/-- `K[0..63]`, the RoundConstants: the table column by column (10 R22). -/
def kRom : Schedule := ⟨(kColumn 0 ++ kColumn 1 ++ kColumn 2 ++ kColumn 3).toArray, rfl⟩

/-- `K[t]` for the 6-bit index `t` (10 R22, R32). -/
def kAt (t : BitVec 6) : Word := kRom[t.toNat]'t.isLt

end Sys2Proof.Machine
end

