-- ==== Sys2Proof/Machine/State.lean ====
section
/-! DEFINITION. The state of the core (10 R20 to R34), the reset state (70 R280) and the update of each field. -/

namespace Sys2Proof.Machine

/-- `MODE` (10 R26). It "records message progress, not privilege" (60 R260). -/
inductive Mode where
  /-- "message bytes are being accepted". -/
  | active
  /-- "FINAL has completed, and `H` holds the digest of the message". -/
  | finished
  deriving DecidableEq, Repr

/-- `ERRCODE` (10 R27, 60 R250). -/
inductive ErrCode where
  /-- 0 NONE. -/
  | noError
  /-- 1 ILLEGAL. -/
  | illegal
  /-- 2 SEQUENCE. -/
  | sequence
  /-- 3 LENGTH. -/
  | length
  deriving DecidableEq, Repr

/-- The engine phase (10 R33). -/
inductive Phase where
  | idle
  | expand
  | rounds
  | feed
  deriving DecidableEq, Repr

/-- The working registers `a..h` (10 R31). -/
structure Working where
  a : Word
  b : Word
  c : Word
  d : Word
  e : Word
  f : Word
  g : Word
  h : Word
  deriving DecidableEq, Repr

/-- An accepted command: its word and the values `A`, `B`, `C` sampled at acceptance (10 R29, 44 R233). -/
structure Command where
  cmd : Word
  a : Word
  b : Word
  c : Word
  deriving DecidableEq, Repr

/-- The input ports at one rising edge of `clk` (10 R34). -/
structure PortIn where
  rst : Bool
  cmdValid : Bool
  cmd : Word
  dataA : Word
  dataB : Word
  dataC : Word
  deriving DecidableEq, Repr

/-- What makes BUSY 0 or 1 (10 R29, 44 R230), with the pending command that is a hidden part of it. -/
inductive Handshake where
  /-- BUSY = 0: a command can be accepted. -/
  | idle
  /-- BUSY = 1: `rst` was 1 at the last edge (70 R280). -/
  | inReset
  /-- BUSY = 1 after reset's release: it falls after `left + 1` more edges (70 R281). -/
  | releasing (left : Nat)
  /-- BUSY = 1: `c` is pending; it completes at the edge after `left` more (44 R229). -/
  | running (c : Command) (left : Nat)
  deriving DecidableEq, Repr

/-- The state of the core, with the host's coming inputs. -/
@[ext]
structure State where
  /-- `H[0..7]`, the hash state (10 R20). -/
  h : HashState
  /-- `L`, the message bit-length counter (10 R23). -/
  l : BitVec 64
  /-- `BUF[0..63]`, the block buffer (10 R24). -/
  buf : Block
  /-- `BC`, the number of meaningful bytes in `BUF` (10 R25). -/
  bc : BitVec 6
  /-- `MODE` (10 R26). -/
  mode : Mode
  /-- `ERR` (10 R27). -/
  err : Bool
  /-- `ERRCODE` (10 R27). -/
  errcode : ErrCode
  /-- `Y`, the ALU result register (10 R28). -/
  y : Word
  /-- BUSY and the pending command behind it (10 R29). -/
  hs : Handshake
  /-- `W[0..63]`, the message schedule (10 R30). -/
  w : Schedule
  /-- `a..h`, the working registers (10 R31). -/
  work : Working
  /-- `t`, the round and schedule index (10 R32). -/
  t : BitVec 6
  /-- The engine phase (10 R33). -/
  phase : Phase
  /-- The model's own field (log 3): the port values the host drives at the coming edges, the next one first. -/
  host : List PortIn
  /-- The model's own field (log 2, log 4): numbers the free values of Config. -/
  fresh : Nat
  deriving DecidableEq, Repr

/-- Why the machine stops. No constructor: "The core has no traps" (60 R259), an error is recorded and "the host
continues" (60 R251), and every accepted command completes (44 R231). -/
inductive Fault : Type
  deriving DecidableEq, Repr

/-- Why an instruction has no meaning in the model. -/
inductive Refusal where
  /-- Raised by exec's arms for an instruction without a meaning; safe. No arm raises it. -/
  | notModelled (mnemonic : String)
  deriving DecidableEq, Repr

/-- The model's outcome of a step or of a command. -/
abbrev Result := Host.Outcome State Fault Refusal

/-- All eight working registers 0: their value at reset (DESIGN CHOICE, log 1; "unspecified and unobservable",
10 R31). -/
def Working.zero : Working := ⟨0, 0, 0, 0, 0, 0, 0, 0⟩

/-- The state right after a reset edge (70 R280). `buf`, `w`, `work` and `t` are "unspecified, unobservable" there
and 0 here (DESIGN CHOICE, log 1). -/
def State.reset : State where
  h := iv
  l := 0
  buf := Vector.replicate 64 0
  bc := 0
  mode := .active
  err := false
  errcode := .noError
  y := 0
  hs := .inReset
  w := Vector.replicate 64 0
  work := Working.zero
  t := 0
  phase := .idle
  host := []
  fresh := 0

/-! ## One update a field -/

/-- The update of `h` alone. -/
def State.withHash (s : State) (v : HashState) : State := { s with h := v }

/-- The update of `l` alone. -/
def State.withLength (s : State) (v : BitVec 64) : State := { s with l := v }

/-- The update of `buf` alone. -/
def State.withBuf (s : State) (v : Block) : State := { s with buf := v }

/-- The update of `bc` alone. -/
def State.withBc (s : State) (v : BitVec 6) : State := { s with bc := v }

/-- The update of `mode` alone. -/
def State.withMode (s : State) (v : Mode) : State := { s with mode := v }

/-- `ERR <- e; ERRCODE <- k`: the two are written together (60 R251, R254). -/
def State.withError (s : State) (e : Bool) (k : ErrCode) : State := { s with err := e, errcode := k }

/-- The update of `y` alone. -/
def State.withY (s : State) (v : Word) : State := { s with y := v }

/-- The update of `hs` alone. -/
def State.withHs (s : State) (v : Handshake) : State := { s with hs := v }

/-- The update of `w` alone. -/
def State.withSchedule (s : State) (v : Schedule) : State := { s with w := v }

/-- The update of `work` alone. -/
def State.withWorking (s : State) (v : Working) : State := { s with work := v }

/-- The update of `t` alone. -/
def State.withIndex (s : State) (v : BitVec 6) : State := { s with t := v }

/-- The update of `phase` alone. -/
def State.withPhase (s : State) (v : Phase) : State := { s with phase := v }

/-- The update of `host` alone. -/
def State.withHost (s : State) (v : List PortIn) : State := { s with host := v }

/-- The update of `fresh` alone. -/
def State.withFresh (s : State) (v : Nat) : State := { s with fresh := v }

end Sys2Proof.Machine
end

