-- ==== Sys2Proof/Machine/Operands.lean ====
section
/-! DEFINITION. Operand assembly (30 R74), PUSH byte lanes (20 R54) and the byte order of words, blocks and the length
field (20 R52, R53, R55). -/

namespace Sys2Proof.Machine

/-! ## Data operands -/

/-- The command that is pending, if any (10 R29). -/
def State.pending? (s : State) : Option Command :=
  match s.hs with
  | .running c _ => some c
  | .idle | .inReset | .releasing _ => none

/-- The pending command's value of one data port; 0 when no command is pending (DESIGN CHOICE, log 8: the step
executes a command only while it is pending). -/
def State.sampled (port : Command → Word) (s : State) : Word :=
  match s.pending? with
  | some c => port c
  | none => 0

/-- `A`, the sampled value of `data_a` (30 R74, 44 R233). -/
def State.opA (s : State) : Word := s.sampled Command.a

/-- `B`, the sampled value of `data_b` (30 R74, 44 R233). -/
def State.opB (s : State) : Word := s.sampled Command.b

/-- `C`, the sampled value of `data_c` (30 R74, 44 R233). -/
def State.opC (s : State) : Word := s.sampled Command.c

/-! ## Byte order -/

/-- `Word(b0, b1, b2, b3)`, `b0` in bits 31:24 (00 R12, 20 R53). -/
def wordOfBytes (b0 b1 b2 b3 : Byte) : Word := b0 ++ b1 ++ b2 ++ b3

/-- The k-th byte of a PUSH, `A[31 - 8k : 24 - 8k]`, k = 0..3 (20 R54). -/
def lane (a : Word) (k : Nat) : Byte := a.extractLsb' (24 - 8 * k) 8

/-- The bytes a PUSH of `n` delivers, in message order (20 R54). -/
def laneBytes (n : Nat) (a : Word) : List Byte := (List.range n).map (lane a)

/-- `M[j] = Word(B[4j], B[4j+1], B[4j+2], B[4j+3])`, j = 0..15 (20 R53). -/
def blockWords (b : Block) : Vector Word 16 :=
  Vector.ofFn fun j : Fin 16 => wordOfBytes b[4 * j.val] b[4 * j.val + 1] b[4 * j.val + 2] b[4 * j.val + 3]

/-- `be64(L)`: the 8 bytes of `L`, most significant first (00 R12, 20 R55). -/
def be64 (l : BitVec 64) : List Byte := (List.range 8).map fun k => l.extractLsb' (56 - 8 * k) 8

/-- `zeros(k)` (00 R12). -/
def zeros (k : Nat) : List Byte := List.replicate k 0

/-- `T[off..off+63]` as a block; the callers' lists reach that far (41 R143). -/
def blockAt (bytes : List Byte) (off : Nat) : Block := Vector.ofFn fun i : Fin 64 => bytes.getD (off + i.val) 0

end Sys2Proof.Machine
end

