-- ==== Sys2Proof/Machine/Ops.lean ====
section
/-! DEFINITION. The operations the meanings share: recording and clearing an error (60 R251, R254), the ALU's write
of Y (40 R114), the accesses to BUF and W (10 R24, R30), and starting a message (44 R222). The core has no trap and so
no return from one (60 R259). -/

namespace Sys2Proof.Machine

/-- `raise Error(code)`: the first error is kept; the flow of commands does not change (60 R251). -/
def State.raiseError (code : ErrCode) (s : State) : State :=
  if s.err then s else s.withError true code

/-- `ERR <- 0; ERRCODE <- 0` (60 R254). -/
def State.clearError (s : State) : State := s.withError false .noError

/-- `Y <- v`, the one effect of an ALU command (40 R114). -/
def State.writeY (v : Word) (s : State) : State := s.withY v

/-- `W[i]`, the 6-bit index taken modulo 64. -/
def wordAt (w : Schedule) (i : BitVec 6) : Word := w[i.toNat]'i.isLt

/-- `W[i] <- v`. -/
def setWord (w : Schedule) (i : BitVec 6) (v : Word) : Schedule := w.set i.toNat v i.isLt

/-- `BUF[i] <- v`. -/
def setByte (buf : Block) (i : BitVec 6) (v : Byte) : Block := buf.set i.toNat v i.isLt

/-- `BUF[0..BC-1]`, the meaningful bytes (10 R24). -/
def State.buffered (s : State) : List Byte := s.buf.toList.take s.bc.toNat

/-- The longest message in bits, `2^64 - 1` (00 R6). -/
def maxLength : Nat := 2 ^ 64 - 1

/-- The effect of INIT: H, L, BC, MODE, ERR and ERRCODE restart; Y and BUF are not changed (44 R222). -/
def State.startMessage (s : State) : State :=
  ((((s.withHash iv).withLength 0).withBc 0).withMode .active).clearError

end Sys2Proof.Machine
end

