-- ==== Sys2Proof/Machine/WordOps.lean ====
section
/-! DEFINITION. The word functions (40 R100 to R110), total and stateless. -/

namespace Sys2Proof.Machine

/-- `rotr(x, n)`, 0 ≤ n ≤ 31 (40 R101). -/
def rotr (x : Word) (n : Nat) : Word := x.rotateRight n

/-- `shr(x, n)`, logical, zero-filled, 0 ≤ n ≤ 31 (40 R102). -/
def shr (x : Word) (n : Nat) : Word := x >>> n

/-- `and_(x, y)` (40 R103). -/
def andW (x y : Word) : Word := x &&& y

/-- `or_(x, y)` (40 R103). -/
def orW (x y : Word) : Word := x ||| y

/-- `xor_(x, y)` (40 R103). -/
def xorW (x y : Word) : Word := x ^^^ y

/-- `xor_(x, y, z) = (x ^ y) ^ z` (40 R103). -/
def xor3 (x y z : Word) : Word := xorW (xorW x y) z

/-- `not_(x) = x ^ 0xFFFFFFFF` (40 R103). -/
def notW (x : Word) : Word := x ^^^ 0xFFFFFFFF

/-- `add_mod(x1, ..., xk)`: the exact sum, reduced modulo 2^32; `add_mod()` is 0 (40 R104). -/
def addMod (xs : List Word) : Word := BitVec.ofNat 32 (xs.map BitVec.toNat).sum

/-- `σ0(x)` (40 R105). -/
def ssig0 (x : Word) : Word := xor3 (rotr x 7) (rotr x 18) (shr x 3)

/-- `σ1(x)` (40 R106). -/
def ssig1 (x : Word) : Word := xor3 (rotr x 17) (rotr x 19) (shr x 10)

/-- `Σ0(a)` (40 R107). -/
def bsig0 (a : Word) : Word := xor3 (rotr a 2) (rotr a 13) (rotr a 22)

/-- `Σ1(e)` (40 R108). -/
def bsig1 (e : Word) : Word := xor3 (rotr e 6) (rotr e 11) (rotr e 25)

/-- `Ch(e, f, g)` (40 R109). -/
def chW (e f g : Word) : Word := xorW (andW e f) (andW (notW e) g)

/-- `Maj(a, b, c)` (40 R110). -/
def majW (a b c : Word) : Word := xor3 (andW a b) (andW a c) (andW b c)

end Sys2Proof.Machine
end

