-- ==== Sys2Proof/Machine/Alu.lean ====
section
/-! DEFINITION. The 13 ALU commands: `Y <- f(A, B, C, SH)` and nothing else, in either MODE and whether or not
ERR = 1 (40 R114). -/

namespace Sys2Proof.Machine

/-- Complete an ALU command with result `v` (40 R114). -/
def aluResult (v : Word) (s : State) : Result := .next (s.writeY v)

/-- ROTR: `Y <- rotr(A, n)` (40 R115). -/
def execRotr (sh : Nat) (s : State) : Result := aluResult (rotr s.opA sh) s

/-- SHR: `Y <- shr(A, n)` (40 R116). -/
def execShr (sh : Nat) (s : State) : Result := aluResult (shr s.opA sh) s

/-- AND: `Y <- A & B` (40 R117). -/
def execAnd (s : State) : Result := aluResult (andW s.opA s.opB) s

/-- OR: `Y <- A | B` (40 R118). -/
def execOr (s : State) : Result := aluResult (orW s.opA s.opB) s

/-- XOR: `Y <- A ^ B` (40 R119). -/
def execXor (s : State) : Result := aluResult (xorW s.opA s.opB) s

/-- NOT: `Y <- A ^ 0xFFFFFFFF` (40 R120). -/
def execNot (s : State) : Result := aluResult (notW s.opA) s

/-- ADD: `Y <- (A + B) mod 2^32` (40 R121). -/
def execAdd (s : State) : Result := aluResult (addMod [s.opA, s.opB]) s

/-- SSIG0: `Y <- σ0(A)` (40 R122). -/
def execSsig0 (s : State) : Result := aluResult (ssig0 s.opA) s

/-- SSIG1: `Y <- σ1(A)` (40 R123). -/
def execSsig1 (s : State) : Result := aluResult (ssig1 s.opA) s

/-- BSIG0: `Y <- Σ0(A)` (40 R124). -/
def execBsig0 (s : State) : Result := aluResult (bsig0 s.opA) s

/-- BSIG1: `Y <- Σ1(A)` (40 R125). -/
def execBsig1 (s : State) : Result := aluResult (bsig1 s.opA) s

/-- CH: `Y <- Ch(A, B, C)` (40 R126). -/
def execCh (s : State) : Result := aluResult (chW s.opA s.opB s.opC) s

/-- MAJ: `Y <- Maj(A, B, C)` (40 R127). -/
def execMaj (s : State) : Result := aluResult (majW s.opA s.opB s.opC) s

end Sys2Proof.Machine
end

