-- ==== Sys2Proof/Machine/Engine.lean ====
section
/-! DEFINITION. NOP and INIT (44 R221, R222). -/

namespace Sys2Proof.Machine

/-- NOP: "no state changes" (44 R221). -/
def execNop (s : State) : Result := .next s

/-- INIT: a new message, in either MODE and with ERR = 1 (44 R222). -/
def execInit (s : State) : Result := .next s.startMessage

end Sys2Proof.Machine
end

