-- ==== Sys2Proof/Machine/Scheduler.lean ====
section
/-! DEFINITION. The EXPAND phase of the engine: W is filled once a block (42 R170, R172, 43 R196). -/

namespace Sys2Proof.Machine

/-- "W[t] <- M[t]" for t = 0..15 (42 R170). -/
def loadWords (m : Vector Word 16) (w : Schedule) : Schedule :=
  Vector.ofFn fun i : Fin 64 => if h : i.val < 16 then m[i.val] else w[i.val]

/-- `W[t]` for t = 16..63 from the four words it depends on (42 R170, R172). -/
def nextWord (w : Schedule) (t : BitVec 6) : Word :=
  addMod [ssig0 (wordAt w (t - 15)), wordAt w (t - 7), ssig1 (wordAt w (t - 2)), wordAt w (t - 16)]

/-- IDLE to EXPAND: load `W[0..15]`, start at t = 16 (43 R196). -/
def State.beginExpand (b : Block) (s : State) : State :=
  ((s.withSchedule (loadWords (blockWords b) s.w)).withIndex 16).withPhase .expand

/-- One schedule word (43 R196); the index steps by one. -/
def State.expandStep (s : State) : State :=
  (s.withSchedule (setWord s.w s.t (nextWord s.w s.t))).withIndex (s.t + 1)

/-- `n` schedule words in increasing t. -/
def State.expandSteps : Nat → State → State
  | 0, s => s
  | n + 1, s => State.expandSteps n s.expandStep

end Sys2Proof.Machine
end

