-- ==== Sys2Proof/Machine/Compressor.lean ====
section
/-! DEFINITION. The ROUNDS and FEED phases and the processing of one block (43 R190 to R196). -/

namespace Sys2Proof.Machine

/-- `T1 = add_mod(h, Σ1(e), Ch(e,f,g), K[t], W[t])` (43 R190). -/
def roundT1 (v : Working) (k w : Word) : Word := addMod [v.h, bsig1 v.e, chW v.e v.f v.g, k, w]

/-- `T2 = add_mod(Σ0(a), Maj(a,b,c))` (43 R190). -/
def roundT2 (v : Working) : Word := addMod [bsig0 v.a, majW v.a v.b v.c]

/-- The simultaneous update of the eight registers from their pre-update values (43 R191, 70 R286). -/
def roundUpdate (v : Working) (k w : Word) : Working where
  a := addMod [roundT1 v k w, roundT2 v]
  b := v.a
  c := v.b
  d := v.c
  e := addMod [v.d, roundT1 v k w]
  f := v.e
  g := v.f
  h := v.g

/-- `(a, ..., h) <- (H[0], ..., H[7])` (43 R192). -/
def Working.ofHash (h : HashState) : Working := ⟨h[0], h[1], h[2], h[3], h[4], h[5], h[6], h[7]⟩

/-- The feed-forward: the elementwise `add_mod` of H and a..h (43 R192). -/
def feedForward (h : HashState) (v : Working) : HashState :=
  #v[addMod [h[0], v.a], addMod [h[1], v.b], addMod [h[2], v.c], addMod [h[3], v.d],
     addMod [h[4], v.e], addMod [h[5], v.f], addMod [h[6], v.g], addMod [h[7], v.h]]

/-- EXPAND to ROUNDS: load `a..h` from H, start at t = 0 (43 R196). -/
def State.beginRounds (s : State) : State :=
  ((s.withWorking (Working.ofHash s.h)).withIndex 0).withPhase .rounds

/-- Round t with `K[t]` and `W[t]` (43 R193); the index steps by one. -/
def State.roundStep (s : State) : State :=
  (s.withWorking (roundUpdate s.work (kAt s.t) (wordAt s.w s.t))).withIndex (s.t + 1)

/-- `n` rounds in increasing t. -/
def State.roundSteps : Nat → State → State
  | 0, s => s
  | n + 1, s => State.roundSteps n s.roundStep

/-- FEED: all eight words of H are written together (43 R194, R196). -/
def State.feed (s : State) : State := (s.withPhase .feed).withHash (feedForward s.h s.work)

/-- Back to IDLE. What W, a..h and t hold from here on is unspecified (43 R195): free values (log 2). -/
def State.endBlock (s : State) : State :=
  ((((s.withSchedule (Config.leftoverSchedule s.fresh)).withWorking
    (Working.ofHash (Config.leftoverWorking s.fresh))).withIndex (Config.leftoverIndex s.fresh)).withPhase
    .idle).withFresh (s.fresh + 1)

/-- The reference sequence with `nw` schedule words and `nr` rounds, one feed-forward (43 R196). -/
def State.blockSequence (nw nr : Nat) (b : Block) (s : State) : State :=
  (State.roundSteps nr (State.expandSteps nw (s.beginExpand b)).beginRounds).feed.endBlock

/-- `H <- ProcessBlock(H, B)` by the reference sequence: 48 schedule words, 64 rounds (43 R194, R196). -/
def State.processBlock (b : Block) (s : State) : State := s.blockSequence 48 64 b

end Sys2Proof.Machine
end

