-- ==== Sys2Proof/Machine/Padder.lean ====
section
/-! DEFINITION. The byte-level padding the core uses, PUSH and FINAL (41 R143, R150, R151). -/

namespace Sys2Proof.Machine

/-- The number of zero bytes between 0x80 and the length field, from the number of buffered bytes (41 R143). -/
def tailZeros (bc : Nat) : Nat := if bc ≤ 55 then 55 - bc else 119 - bc

/-- `Tail(Bbuf, L) = Bbuf ++ [0x80] ++ zeros(z) ++ be64(L)`, 64 or 128 bytes (41 R143). -/
def tail (bbuf : List Byte) (l : BitVec 64) : List Byte :=
  bbuf ++ [0x80] ++ zeros (tailZeros bbuf.length) ++ be64 l

/-- One byte of a PUSH: into BUF, BC and L counted, the block processed when it is full (41 R150). -/
def State.absorbByte (b : Byte) (s : State) : State :=
  let s1 := (s.withBuf (setByte s.buf s.bc b)).withLength (s.l + 8)
  if s.bc.toNat + 1 = 64 then (s1.processBlock s1.buf).withBc 0 else s1.withBc (s.bc + 1)

/-- The bytes of a PUSH in message order (41 R150). -/
def State.absorb (bytes : List Byte) (s : State) : State := bytes.foldl (fun s b => s.absorbByte b) s

/-- PUSH of `n` bytes (41 R150). The checks are in the order of 60 R255. -/
def execPush (n : Nat) (s : State) : Result :=
  if s.err then .next s
  else if s.mode = .finished then .next (s.raiseError .sequence)
  else if s.l.toNat + 8 * n > maxLength then .next (s.raiseError .length)
  else .next (s.absorb (laneBytes n s.opA))

/-- FINAL's effect on a message in progress: the tail's blocks in order, then BC = 0 and FINISHED (41 R151). -/
def State.finish (s : State) : State :=
  let T := tail s.buffered s.l
  let s1 := s.processBlock (blockAt T 0)
  let s2 := if T.length = 128 then s1.processBlock (blockAt T 64) else s1
  (s2.withBc 0).withMode .finished

/-- FINAL (41 R151). L is left unchanged. The checks are in the order of 60 R255. -/
def execFinal (s : State) : Result :=
  if s.err then .next s
  else if s.mode = .finished then .next (s.raiseError .sequence)
  else .next s.finish

end Sys2Proof.Machine
end

