-- ==== Sys2Proof/Machine/Handshake.lean ====
section
/-! DEFINITION. The command port, completion, reset and its release at one rising edge of `clk` (44 R220, R228 to
R235, 70 R280, R281). -/

namespace Sys2Proof.Machine

/-! ## Command execution -/

/-- `Exec(S, w, A, B, C)` on the state in which the command `c` is pending (44 R220): an illegal word only raises
ILLEGAL (60 R250, R252). -/
def dispatch (c : Command) (s : State) : Result :=
  match decode c.cmd with
  | .illegal _ => .next (s.raiseError .illegal)
  | .instr i => exec i s

/-- Clear the pending record once the command has had its effect (44 R235). -/
def clearPending (r : Result) : Result :=
  match r with
  | .next s => .next (s.withHs .idle)
  | .fault f => .fault f
  | .refused f => .refused f

/-- **complete** (44 R229, R235): the whole effect of the pending command, at one edge. -/
def completeCommand (c : Command) (s : State) : Result := clearPending (dispatch c s)

/-- Accept `c` and complete it at once: a command of latency 0 in a state that is ready (44 R229, R230). A run of
commands without their timing (Safety.lean) is made of these. -/
def performCommand (c : Command) (s : State) : Result := completeCommand c (s.withHs (.running c 0))

/-! ## The edge -/

/-- The host drives nothing: `rst = 0`, `cmd_valid = 0`. -/
def PortIn.quiet : PortIn := ⟨false, false, 0, 0, 0, 0⟩

/-- What the ports carry at the coming edge; the host is quiet once its list is used up (log 3). -/
def State.portIn (s : State) : PortIn := s.host.headD PortIn.quiet

/-- The same state after the host's input of this edge is used. -/
def State.advanceHost (s : State) : State := s.withHost s.host.tail

/-- The sampling of `cmd`, `data_a`, `data_b` and `data_c` at the accepting edge (44 R233). -/
def PortIn.command (p : PortIn) : Command := ⟨p.cmd, p.dataA, p.dataB, p.dataC⟩

/-- The latency of an accepted command: the open parameter of its kind (00 R8, 44 R229); log 4, log 5. -/
def latency (c : Command) (s : State) : Nat :=
  match decode c.cmd with
  | .illegal _ => Config.latIllegal s.fresh s
  | .instr .nop => Config.latNop s.fresh s
  | .instr .init => Config.latInit s.fresh s
  | .instr (.push _) => Config.latPush s.fresh s
  | .instr .final => Config.latFinal s.fresh s
  | .instr _ => Config.latAlu s.fresh s

/-- **accept** (44 R228, R229): the command and its operands are recorded; with latency 0 it completes at this very
edge. -/
def acceptCommand (c : Command) (s : State) : Result :=
  let s1 := (s.withHs (.running c 0)).withFresh (s.fresh + 1)
  match latency c (s.withHs (.running c 0)) with
  | 0 => completeCommand c s1
  | n + 1 => .next (s1.withHs (.running c n))

/-- A rising edge with `rst = 1` (70 R280): any pending command is abandoned and the reset values are taken. The
host's coming inputs and the number of the next free value are no part of the core. -/
def State.resetEdge (s : State) : State := (State.reset.withHost s.host).withFresh s.fresh

/-- The first rising edge with `rst = 0` after a reset (70 R281). -/
def State.releaseEdge (s : State) : State :=
  match Config.tRstReady s.fresh s with
  | 0 => (s.withHs .idle).withFresh (s.fresh + 1)
  | n + 1 => (s.withHs (.releasing n)).withFresh (s.fresh + 1)

/-- One rising edge of `clk`. -/
def clockEdge (s : State) : Result :=
  let p := s.portIn
  let s0 := s.advanceHost
  if p.rst then .next s0.resetEdge
  else match s.hs with
    | .inReset => .next s0.releaseEdge
    | .releasing 0 => .next (s0.withHs .idle)
    | .releasing (n + 1) => .next (s0.withHs (.releasing n))
    | .idle => if p.cmdValid then acceptCommand p.command s0 else .next s0
    | .running c 0 => completeCommand c s0
    | .running c (n + 1) => .next (s0.withHs (.running c n))

/-! ## Placing a command -/

/-- The state with `c` pending and about to complete at the coming edge, where the host does not reset. -/
def State.placeCommand (c : Command) (s : State) : State :=
  (s.withHs (.running c 0)).withHost (s.host.modifyHead fun p => { p with rst := false })

/-- The command of a table row's word, its data operands 0. -/
def tableCommand (nbits w : Nat) : Command := ⟨BitVec.ofNat 32 (w % 2 ^ nbits), 0, 0, 0⟩

end Sys2Proof.Machine
end

