-- ==== Sys2Proof/Machine/Assembler.lean ====
section
/-! DEFINITION. The assembler lines of 30 R80 and the pseudo-commands of 30 R81: text to lines, lines to the commands
the host issues. Host side: "It has no effect on the hardware" (92 D27). The text encoding of PUSHSTR and HASH is the
host's (93 I13), an argument here. -/

namespace Sys2Proof.Machine

/-- One assembler line (30 R80, R81). -/
inductive AsmLine where
  /-- A command with the data-port values it names; a port it does not read gets 0, "its value does not matter". -/
  | command (i : Instr) (a b c : Word)
  /-- `PUSHW a`. -/
  | pushw (a : Word)
  /-- `ROTL a, n`, n = 0..31. -/
  | rotl (a : Word) (n : Nat)
  /-- `PUSHBYTES b0, b1, ...`. -/
  | pushBytes (bytes : List Byte)
  /-- `PUSHSTR "s"`. -/
  | pushStr (s : List Char)
  /-- `HASH "s"`. -/
  | hash (s : List Char)
  /-- `WAIT`: no command word. -/
  | wait
  deriving DecidableEq, Repr

/-! ## Lines to commands -/

/-- A command with its operands (30 R80). -/
def commandOf (i : Instr) (a b c : Word) : Command := ⟨encode i, a, b, c⟩

/-- PUSHBYTES: `PUSH 4` for every four bytes, then one PUSH of the rest, left-justified (30 R81). -/
def pushBytesCommands : List Byte → List Command
  | b0 :: b1 :: b2 :: b3 :: rest => commandOf (.push 4) (wordOfBytes b0 b1 b2 b3) 0 0 :: pushBytesCommands rest
  | [b0, b1, b2] => [commandOf (.push 3) (wordOfBytes b0 b1 b2 0) 0 0]
  | [b0, b1] => [commandOf (.push 2) (wordOfBytes b0 b1 0 0) 0 0]
  | [b0] => [commandOf (.push 1) (wordOfBytes b0 0 0 0) 0 0]
  | [] => []

/-- The commands a line expands to, for the host's text encoding `enc` (30 R80, R81). -/
def AsmLine.commands (enc : List Char → List Byte) : AsmLine → List Command
  | .command i a b c => [commandOf i a b c]
  | .pushw a => [commandOf (.push 4) a 0 0]
  | .rotl a n => [commandOf (.rotr ((32 - n) % 32)) a 0 0]
  | .pushBytes bytes => pushBytesCommands bytes
  | .pushStr s => pushBytesCommands (enc s)
  | .hash s => [commandOf .init 0 0 0] ++ pushBytesCommands (enc s) ++ [commandOf .final 0 0 0]
  | .wait => []

/-- ASCII, the encoding of the spec's examples (30 R81, 93 G4). -/
def ascii (s : List Char) : List Byte := s.map fun c => BitVec.ofNat 8 c.toNat

/-! ## Text to lines -/

/-- The tokens of a line. -/
inductive Token where
  | name (cs : List Char)
  | text (cs : List Char)
  | comma
  deriving DecidableEq, Repr

/-- The token read so far, if any. -/
def flushName (acc : List Char) : List Token := if acc.isEmpty then [] else [.name acc.reverse]

/-- The tokens of a line; ";" starts a comment, a quoted text may hold any character but the quote (character 34). -/
def tokens (acc : List Char) (inText : Bool) : List Char → Option (List Token)
  | [] => if inText then none else some (flushName acc)
  | c :: cs =>
    if inText then
      if c.toNat = 34 then (tokens [] false cs).map (Token.text acc.reverse :: ·) else tokens (c :: acc) true cs
    else if c = ';' then some (flushName acc)
    else if c.toNat = 34 then (tokens [] true cs).map (flushName acc ++ ·)
    else if c = ',' then (tokens [] false cs).map (flushName acc ++ Token.comma :: ·)
    else if c.isWhitespace then (tokens [] false cs).map (flushName acc ++ ·)
    else tokens (c :: acc) false cs

/-- Operands separated by single commas. -/
def operandList : List Token → Option (List Token)
  | [] => some []
  | [.name cs] => some [.name cs]
  | [.text cs] => some [.text cs]
  | .name cs :: .comma :: t :: rest => (operandList (t :: rest)).map (Token.name cs :: ·)
  | _ => none

/-- A digit's value, both cases of the hexadecimal letters. -/
def digitValue (c : Char) : Option Nat :=
  if '0' ≤ c ∧ c ≤ '9' then some (c.toNat - 48)
  else if 'a' ≤ c ∧ c ≤ 'f' then some (c.toNat - 87)
  else if 'A' ≤ c ∧ c ≤ 'F' then some (c.toNat - 55)
  else none

/-- Digits in a base, most significant first, after the value `acc`. -/
def digitsValue (base acc : Nat) : List Char → Option Nat
  | [] => some acc
  | c :: cs =>
    match digitValue c with
    | some d => if d < base then digitsValue base (acc * base + d) cs else none
    | none => none

/-- "Numbers may be decimal or `0x` hexadecimal" (30 R80). -/
def numberValue : List Char → Option Nat
  | '0' :: 'x' :: c :: cs => digitsValue 16 0 (c :: cs)
  | c :: cs => digitsValue 10 0 (c :: cs)
  | [] => none

/-- The operands as numbers. -/
def numbers : List Token → Option (List Nat)
  | [] => some []
  | .name cs :: rest =>
    match numberValue cs, numbers rest with
    | some n, some ns => some (n :: ns)
    | _, _ => none
  | _ => none

/-- A data-port value, 32 bits. -/
def portValue (n : Nat) : Option Word := if n < 2 ^ 32 then some (BitVec.ofNat 32 n) else none

/-- Data-port values. -/
def portValues : List Nat → Option (List Word)
  | [] => some []
  | n :: ns =>
    match portValue n, portValues ns with
    | some w, some ws => some (w :: ws)
    | _, _ => none

/-- A line with `i` whose operands are the given data-port values. -/
def dataLine (i : Instr) (arity : Nat) (ns : List Nat) : Option AsmLine :=
  match portValues ns with
  | some ws => if ws.length = arity then some (.command i (ws.getD 0 0) (ws.getD 1 0) (ws.getD 2 0)) else none
  | none => none

/-- A line of a well-formed command whose one data operand is `a`. -/
def fieldLine (i : Instr) (a : Nat) : Option AsmLine := if i.wf then (portValue a).map (.command i · 0 0) else none

/-- The line of a mnemonic, in capitals, with number operands (30 R80, R81). -/
def numberLine (m : String) (ns : List Nat) : Option AsmLine :=
  match m, ns with
  | "NOP", ns => dataLine .nop 0 ns
  | "INIT", ns => dataLine .init 0 ns
  | "FINAL", ns => dataLine .final 0 ns
  | "PUSH", [n, a] => fieldLine (.push n) a
  | "ROTR", [a, sh] => fieldLine (.rotr sh) a
  | "SHR", [a, sh] => fieldLine (.shr sh) a
  | "AND", ns => dataLine .and 2 ns
  | "OR", ns => dataLine .or 2 ns
  | "XOR", ns => dataLine .xor 2 ns
  | "NOT", ns => dataLine .not 1 ns
  | "ADD", ns => dataLine .add 2 ns
  | "SSIG0", ns => dataLine .ssig0 1 ns
  | "SSIG1", ns => dataLine .ssig1 1 ns
  | "BSIG0", ns => dataLine .bsig0 1 ns
  | "BSIG1", ns => dataLine .bsig1 1 ns
  | "CH", ns => dataLine .ch 3 ns
  | "MAJ", ns => dataLine .maj 3 ns
  | "PUSHW", [a] => (portValue a).map .pushw
  | "ROTL", [a, n] => if n ≤ 31 then (portValue a).map (.rotl · n) else none
  | "PUSHBYTES", n :: ns => if (n :: ns).all (· < 256) then some (.pushBytes ((n :: ns).map (BitVec.ofNat 8))) else none
  | "WAIT", [] => some .wait
  | _, _ => none

/-- "Mnemonics are case-insensitive" (30 R80). -/
def mnemonicOf (cs : List Char) : String := String.ofList (cs.map Char.toUpper)

/-- The line of its tokens; the operand of PUSHSTR and HASH is a quoted text. -/
def lineOfTokens : List Token → Option (List AsmLine)
  | [] => some []
  | .name m :: rest =>
    match operandList rest with
    | some [.text s] =>
      if mnemonicOf m = "PUSHSTR" then some [.pushStr s]
      else if mnemonicOf m = "HASH" then some [.hash s]
      else none
    | some ops => ((numbers ops).bind (numberLine (mnemonicOf m))).map ([·])
    | none => none
  | _ => none

/-- A line of text: no line for a blank or comment-only one, none where the text is no assembler line (30 R80). -/
def parseLine (text : List Char) : Option (List AsmLine) := (tokens [] false text).bind lineOfTokens

end Sys2Proof.Machine
end

