-- ==== Sys2Proof/Machine/Flags.lean ====
section
/-! DEFINITION. The output ports as functions of the state (10 R34 to R37). No command sets a flag beyond these bits
(10 R40). -/

namespace Sys2Proof.Machine

/-- BUSY (10 R29): 0 exactly when a command can be accepted. -/
def State.busy (s : State) : Bool :=
  match s.hs with
  | .idle => false
  | .inReset | .releasing _ | .running _ _ => true

/-- The port `cmd_ready = NOT BUSY` (44 R230). -/
def State.cmdReady (s : State) : Bool := !s.busy

/-- DONE: "1 if and only if MODE = FINISHED" (10 R35). -/
def State.done (s : State) : Bool := s.mode == .finished

/-- The codes of ERRCODE (10 R27, 60 R250). -/
def ErrCode.bits : ErrCode → BitVec 2
  | .noError => 0
  | .illegal => 1
  | .sequence => 2
  | .length => 3

/-- The port `status`: BUSY in bit 0, DONE in bit 1, ERR in bit 2, ERRCODE in bits 5:4, every other bit 0
(10 R35). -/
def State.status (s : State) : Word :=
  (0 : BitVec 26) ++ s.errcode.bits ++ (0 : BitVec 1) ++ BitVec.ofBool s.err ++ BitVec.ofBool s.done
    ++ BitVec.ofBool s.busy

/-- Eight Words as 256 bits, the first one most significant (10 R36). -/
def digestOf (h : HashState) : BitVec 256 :=
  h[0] ++ h[1] ++ h[2] ++ h[3] ++ h[4] ++ h[5] ++ h[6] ++ h[7]

/-- The port `digest`: H at all times (10 R36). -/
def State.digest (s : State) : BitVec 256 := digestOf s.h

/-- Byte j of the serialized digest, `digest[255 - 8*j : 248 - 8*j]`, j = 0..31 (10 R36, 20 R56). -/
def digestByte (d : BitVec 256) (j : Nat) : Byte := d.extractLsb' (248 - 8 * j) 8

/-- The port `y` equals `Y` at all times (10 R37). -/
def State.yPort (s : State) : Word := s.y

/-- When `digest` holds the digest of the message: DONE = 1, ERR = 0 and BUSY = 0 (70 R285). -/
def State.digestValid (s : State) : Bool := s.done && !s.err && !s.busy

end Sys2Proof.Machine
end

