-- ==== Sys2Proof/Machine/Reference.lean ====
section
/-! DEFINITION. The functions of the source document on a whole message, in its own form: Pad on bits (41 R140, R145),
Expand (42 R170), Compress and ProcessBlock (43 R192, R194), Hash (44 R223), and the host's rendering of a digest
(44 R226). The core reaches the same results by its own sequence; Safety.lean and the obligations compare the two. -/

namespace Sys2Proof.Machine

/-! ## Padding -/

/-- The bits of a byte, most significant first (20 R52). -/
def byteBits (b : Byte) : List Bool := (List.range 8).map fun i => b.getMsbD i

/-- The bit representation of a byte message (20 R52). -/
def messageBits (m : List Byte) : List Bool := m.flatMap byteBits

/-- `bits64_be(L)`: the 64 bits of L, most significant first (41 R140). For L ≥ 2^64, which R140 leaves out, the bits
of L modulo 2^64 (DESIGN CHOICE, log 15). -/
def bits64be (l : Nat) : List Bool := (List.range 64).map fun i => (BitVec.ofNat 64 l).getMsbD i

/-- The number k of zero bits, from `M = (L + 1) mod 512`; M = 448 takes the second branch (41 R140, R141). -/
def padZeros (l : Nat) : Nat := if (l + 1) % 512 < 448 then 448 - (l + 1) % 512 else 960 - (l + 1) % 512

/-- `Pad(m)` (41 R140), for messages of up to 2^64 - 1 bits; beyond them a total extension (DESIGN CHOICE, log 15). -/
def pad (m : List Bool) : List Bool :=
  m ++ [true] ++ List.replicate (padZeros m.length) false ++ bits64be m.length

/-- Bits to bytes, eight at a time, the first bit most significant (20 R52). -/
def bytesOfBits : List Bool → List Byte
  | b7 :: b6 :: b5 :: b4 :: b3 :: b2 :: b1 :: b0 :: rest =>
    (BitVec.ofBool b7 ++ BitVec.ofBool b6 ++ BitVec.ofBool b5 ++ BitVec.ofBool b4 ++ BitVec.ofBool b3
      ++ BitVec.ofBool b2 ++ BitVec.ofBool b1 ++ BitVec.ofBool b0 : BitVec 8) :: bytesOfBits rest
  | _ => []

/-- A byte sequence in consecutive 64-byte blocks, in order (41 R145). -/
def blocksOf (bytes : List Byte) : List Block := (List.range (bytes.length / 64)).map fun i => blockAt bytes (64 * i)

/-- The blocks of `Pad(m)` for a byte message (41 R140, R145); from 2^61 bytes on, those of the extension (log 15). -/
def paddedBlocks (m : List Byte) : List Block := blocksOf (bytesOfBits (pad (messageBits m)))

/-! ## Schedule and compression -/

/-- `n` more schedule words on a list with the newest word first: `W[t-2]`, `W[t-7]`, `W[t-15]`, `W[t-16]` stand at
places 1, 6, 14 and 15 (42 R170). -/
def expandMore : Nat → List Word → List Word
  | 0, ws => ws
  | n + 1, ws =>
    expandMore n (addMod [ssig0 (ws.getD 14 0), ws.getD 6 0, ssig1 (ws.getD 1 0), ws.getD 15 0] :: ws)

/-- `Expand(M[0..15])`, the 64 words in order (42 R170). -/
def expand (m : Vector Word 16) : List Word := (expandMore 48 m.toList.reverse).reverse

/-- The 64 rounds from given working registers, one K and one W a round (43 R190, R191, R193). -/
def rounds (v : Working) (ws : List Word) : Working :=
  (kRom.toList.zip ws).foldl (fun v kw => roundUpdate v kw.1 kw.2) v

/-- `Compress(Hin, W)` (43 R192). -/
def compress (hin : HashState) (ws : List Word) : HashState := feedForward hin (rounds (Working.ofHash hin) ws)

/-- `ProcessBlock(H, B)` (43 R194). -/
def blockFunction (h : HashState) (b : Block) : HashState := compress h (expand (blockWords b))

/-- The blocks folded into a chaining value in order (44 R223, 20 R62). -/
def chain (h : HashState) (bs : List Block) : HashState := bs.foldl blockFunction h

/-- `Hash(m)` (44 R223), for messages of fewer than 2^61 bytes; beyond them a total extension (DESIGN CHOICE,
log 15). -/
def hashOf (m : List Byte) : HashState := chain iv (paddedBlocks m)

/-! ## The host's rendering -/

/-- A nibble as one of `0123456789abcdef` (44 R226). -/
def hexDigit (n : Nat) : Char := if n < 10 then Char.ofNat (48 + n) else Char.ofNat (87 + n)

/-- A byte as two characters, the high nibble first (44 R226). -/
def hexByte (b : Byte) : List Char := [hexDigit (b.toNat / 16), hexDigit (b.toNat % 16)]

/-- The host's 64-character string: bytes j = 0..31 of the `digest` port value in order (44 R226, 20 R56). -/
def renderDigest (d : BitVec 256) : List Char :=
  (List.range 32).flatMap fun j => hexByte (d.extractLsb' (248 - 8 * j) 8)

end Sys2Proof.Machine
end

