-- ==== Sys2Proof/Safety.lean ====
section
/-! DEFINITION. The terms of the claims: the invariant of every state a run reaches, runs of commands without their
timing, what a message's state is, and what can be told of it. -/

namespace Sys2Proof.Machine

/-! ## The invariant -/

/-- What every step keeps: L counts whole bytes (10 R23), BC is `(L/8) mod 64` while ACTIVE and 0 while FINISHED
(10 R25), ERRCODE is NONE exactly when ERR = 0 (10 R27), the engine is IDLE at every edge (log 6: it runs inside the
completion step). -/
structure State.Inv (s : State) : Prop where
  length_bytes : s.l.toNat % 8 = 0
  bc_active : s.mode = .active → s.bc.toNat = s.l.toNat / 8 % 64
  bc_finished : s.mode = .finished → s.bc = 0
  error_code : s.err = false ↔ s.errcode = .noError
  engine_idle : s.phase = .idle

/-! ## Runs -/

/-- The next state, where there is one. -/
def nextOf (r : Result) : Option State :=
  match r with
  | .next s => some s
  | .fault _ => none
  | .refused _ => none

/-- A safe outcome: the core goes on. -/
def goesOn (r : Result) : Bool := (nextOf r).isSome

/-- Commands one after another, each accepted when the one before it has completed (20 R62), without their timing. -/
def runCommands : List Command → State → Result
  | [], s => .next s
  | c :: cs, s =>
    match performCommand c s with
    | .next t => runCommands cs t
    | .fault f => .fault f
    | .refused r => .refused r

/-- The bytes a command delivers if it is a PUSH (20 R54). -/
def Command.bytes (c : Command) : List Byte :=
  match decode c.cmd with
  | .instr (.push n) => laneBytes n c.a
  | _ => []

/-- The bytes the PUSHes among the commands deliver, in order. -/
def pushedBytes (cs : List Command) : List Byte := cs.flatMap Command.bytes

/-- Whether the command is INIT. -/
def Command.isInit (c : Command) : Bool := decode c.cmd == .instr .init

/-- Whether the command is a PUSH. -/
def Command.isPush (c : Command) : Bool :=
  match decode c.cmd with
  | .instr (.push _) => true
  | _ => false

/-- The command FINAL, its data ports anything. -/
def Command.isFinal (c : Command) : Bool := decode c.cmd == .instr .final

/-- Ready to absorb a new message: what reset's release and INIT leave (70 R280, R283, 44 R222). -/
def State.messageStart (s : State) : Prop :=
  s.h = iv ∧ s.l = 0 ∧ s.bc = 0 ∧ s.mode = .active ∧ s.err = false ∧ s.errcode = .noError

/-! ## What can be told of a state -/

/-- The two states are at the same point of the same message: they agree on all that feeds the hash and the status,
and on the meaningful bytes of BUF (10 R24). Y, the stale bytes of BUF and the internal datapath may differ. -/
def State.sameMessage (s t : State) : Prop :=
  s.h = t.h ∧ s.l = t.l ∧ s.bc = t.bc ∧ s.mode = t.mode ∧ s.err = t.err ∧ s.errcode = t.errcode ∧
    s.buffered = t.buffered

/-- Every architectural register but BUSY is the same. What holds from a command's acceptance up to its completion
(44 R229). -/
def State.sameArchitecture (s t : State) : Prop :=
  s.h = t.h ∧ s.l = t.l ∧ s.buf = t.buf ∧ s.bc = t.bc ∧ s.mode = t.mode ∧ s.err = t.err ∧ s.errcode = t.errcode ∧
    s.y = t.y

/-- The host's inputs of the next `n` edges hold no reset. -/
def State.noReset (s : State) (n : Nat) : Prop := ∀ p ∈ s.host.take n, p.rst = false

end Sys2Proof.Machine
end

