-- ==== Sys2Proof/Certificates/Slice0/Obligations.lean ====
section
/-! DEFINITION. The statements for the provers. Each docstring names the rules of spec/ it formalises. -/

open Sys2Proof Sys2Proof.Machine

/-! ## Encoding -/

/-- Words written out from 30 R77 decode to the commands they stand for (95 V-ENC-1), and words of 95 V-ENC-2 to
none. -/
def Obligations.TableWordsDecode : Prop :=
  decode 0x00000000 = .instr .nop ∧ decode 0x10000000 = .instr .init ∧
  decode 0x20000000 = .instr (.push 1) ∧ decode 0x20000003 = .instr (.push 4) ∧
  decode 0x30000000 = .instr .final ∧ decode 0x4000001F = .instr (.rotr 31) ∧
  decode 0x41000004 = .instr (.shr 4) ∧ decode 0x46000000 = .instr .add ∧
  decode 0x4B000000 = .instr .bsig1 ∧ decode 0x4D000000 = .instr .maj ∧
  decode 0x20000004 = .illegal .reservedBits ∧ decode 0x42000001 = .illegal .shiftNotAllowed ∧
  decode 0x47000000 = .illegal .reservedFn ∧ decode 0x50000000 = .illegal .reservedOpc

/-- Decoding the encoding of a well-formed command gives it back (30 R71 to R76, R79). -/
def Obligations.DecodeOfEncode : Prop :=
  ∀ i : Instr, i.wf = true → decode (encode i) = .instr i

/-- A legal word is the encoding of the command it decodes to, which is well-formed: no bit of a word is dropped
(30 R70 to R74, R79). -/
def Obligations.EncodeOfDecode : Prop :=
  ∀ (w : Word) (i : Instr), decode w = .instr i → i.wf = true ∧ encode i = w

/-- 30 R77: a word encodes a command exactly when that command's row, and no other, matches it; the free fields are
CNT = w[1:0] and SH = w[4:0]; a word that no row matches is illegal; 82 words are legal. -/
def Obligations.OpcodeTableIsTheDecoder : Prop :=
  (∀ (w : Word) (i : Instr), decode w = .instr i →
    (opcodeRows.filter fun r => r.hits w).map OpcodeRow.mnemonic = [i.mnemonic]) ∧
  (∀ (w : Word) (n : Nat), decode w = .instr (.push n) → n = w.toNat % 4 + 1) ∧
  (∀ (w : Word) (sh : Nat), decode w = .instr (.rotr sh) ∨ decode w = .instr (.shr sh) → sh = w.toNat % 32) ∧
  (∀ w : Word, (∃ why, decode w = .illegal why) ↔ ∀ r ∈ opcodeRows, r.hits w = false) ∧
  (∃ ws : List Word, ws.Nodup ∧ ws.length = 82 ∧ ∀ w, w ∈ ws ↔ ∃ i, decode w = .instr i)

/-- 30 R78: the illegal words are the ones that no row of R77 matches, and exactly the four classes listed there;
accepting one raises ILLEGAL and has no other effect; NOP is the only command that never changes anything. -/
def Obligations.IllegalWordsAreTheListedOnes : Prop :=
  (∀ w : Word, (∃ why, decode w = .illegal why) ↔ ∀ r ∈ opcodeRows, r.hits w = false) ∧
  (∀ w : Word,
    let opc := w.toNat / 2 ^ 28
    let fn := w.toNat / 2 ^ 24 % 16
    let sh := w.toNat % 32
    ((∃ why, decode w = .illegal why) ↔
      5 ≤ opc ∨
      ((opc = 0 ∨ opc = 1 ∨ opc = 3) ∧ w.toNat % 2 ^ 28 ≠ 0) ∨
      (opc = 2 ∧ w.toNat / 4 % 2 ^ 26 ≠ 0) ∨
      (opc = 4 ∧ w.toNat / 32 % 2 ^ 19 ≠ 0) ∨
      (opc = 4 ∧ (fn = 7 ∨ fn = 14 ∨ fn = 15)) ∨
      (opc = 4 ∧ fn ≠ 0 ∧ fn ≠ 1 ∧ sh ≠ 0))) ∧
  (∀ (c : Command) (s : State) (why : Illegal), decode c.cmd = .illegal why →
    performCommand c s =
      .next { s with hs := .idle, err := true, errcode := if s.err then s.errcode else .illegal }) ∧
  (∀ i : Instr, i.wf = true → (i = .nop ↔ ∀ s : State, exec i s = .next s))

/-! ## Errors -/

/-- 60 R251: `raise` records an error only if none is recorded, and it never changes the flow of commands: every
command, one that raises too, completes and leaves the core ready. -/
def Obligations.RaiseKeepsTheFirstError : Prop :=
  (∀ (s : State) (code : ErrCode), s.err = false → s.raiseError code = { s with err := true, errcode := code }) ∧
  (∀ (s : State) (code : ErrCode), s.err = true → s.raiseError code = s) ∧
  (∀ (c : Command) (s : State), ∃ t, performCommand c s = .next t ∧ t.cmdReady = true)

/-- 60 R252: a command that raises an error changes nothing but ERR and ERRCODE (BUSY aside, which falls); an illegal
word does that whatever the state is (95 V-ERR-1, V-ERR-4). -/
def Obligations.RaisingCommandHasNoOtherEffect : Prop :=
  (∀ (c : Command) (s t : State), s.err = false → performCommand c s = .next t → t.err = true →
    t = { s with hs := .idle, err := true, errcode := t.errcode } ∧ t.errcode ≠ .noError) ∧
  (∀ (c : Command) (s : State) (why : Illegal), decode c.cmd = .illegal why →
    performCommand c s =
      .next { s with hs := .idle, err := true, errcode := if s.err then s.errcode else .illegal })

/-- 60 R255: the checks of one command in their order. An illegal word raises ILLEGAL in every state; then ERR = 1
stops PUSH and FINAL; then FINISHED raises SEQUENCE, also where the length would be passed; then the length. -/
def Obligations.ChecksInPriorityOrder : Prop :=
  ∀ (c : Command) (s : State),
    (∀ why, decode c.cmd = .illegal why → performCommand c s = .next ((s.withHs .idle).raiseError .illegal)) ∧
    (decode c.cmd = .instr .final ∨ (∃ n, decode c.cmd = .instr (.push n)) →
      (s.err = true → performCommand c s = .next { s with hs := .idle }) ∧
      (s.err = false → s.mode = .finished →
        performCommand c s = .next { s with hs := .idle, err := true, errcode := .sequence })) ∧
    (∀ n, decode c.cmd = .instr (.push n) → s.err = false → s.mode = .active →
      2 ^ 64 - 1 < s.l.toNat + 8 * n →
        performCommand c s = .next { s with hs := .idle, err := true, errcode := .length })

/-- 60 R254: INIT and reset clear ERR and ERRCODE and nothing else does (while ERR stays 1 ERRCODE keeps the first
code, 10 R27); no command clears the error without restarting the message. -/
def Obligations.OnlyInitAndResetClearTheError : Prop :=
  (∀ s t : State, step s = .next t → s.err = true →
    (t.err = true ∧ t.errcode = s.errcode) ∨
    s.portIn.rst = true ∨
    ∃ c : Command, c.isInit = true ∧
      (s.hs = .running c 0 ∨ (s.hs = .idle ∧ s.portIn.cmdValid = true ∧ c = s.portIn.command))) ∧
  (∀ s : State, ∃ t, exec .init s = .next t ∧ t.err = false ∧ t.errcode = .noError) ∧
  (∀ s : State, s.portIn.rst = true → ∃ t, step s = .next t ∧ t.err = false ∧ t.errcode = .noError) ∧
  (∀ (i : Instr) (s t : State), exec i s = .next t → s.err = true → t.err = false → t.messageStart)

/-- 60 R253: while ERR = 1, PUSH and FINAL have no effect at all; DONE cannot become 1; INIT, NOP and the ALU
commands execute as they do with ERR = 0. -/
def Obligations.ErrorGatesPushAndFinal : Prop :=
  (∀ (n : Nat) (s : State), s.err = true → exec (.push n) s = .next s) ∧
  (∀ s : State, s.err = true → exec .final s = .next s) ∧
  (∀ s t : State, s.err = true → s.done = false → step s = .next t → t.done = false) ∧
  (∀ (i : Instr) (s : State), i = .init ∨ i = .nop ∨ i.isAlu = true →
    ∃ t, exec i { s with err := false, errcode := .noError } = .next t ∧
      exec i s = .next (if i = .init then t else { t with err := s.err, errcode := s.errcode }))

/-! ## NOP, INIT, PUSH, FINAL -/

/-- 44 R221: NOP changes no state; a word with OPC = 0 and any other bit set is illegal. -/
def Obligations.NopChangesNothing : Prop :=
  decode 0x00000000 = .instr .nop ∧ (∀ s : State, exec .nop s = .next s) ∧
  ∀ w : Word, w.toNat / 2 ^ 28 = 0 → w ≠ 0 → ∃ why, decode w = .illegal why

/-- 44 R222: INIT restarts H, L, BC, MODE, ERR and ERRCODE and changes nothing else, in either MODE and with
ERR = 1; right after reset it changes nothing; it is the only command that leaves an error state.
That BUF, W, a..h and t keep their contents, which R222 only calls unobservable (93 I2 lets them be anything), is the
model's reading (log 11). -/
def Obligations.InitStartsAMessage : Prop :=
  decode 0x10000000 = .instr .init ∧
  (∀ s : State, exec .init s =
    .next { s with h := iv, l := 0, bc := 0, mode := .active, err := false, errcode := .noError }) ∧
  exec .init State.reset = .next State.reset ∧
  ∀ (i : Instr) (s t : State), exec i s = .next t → s.err = true → t.err = false → i = .init

/-- The three ways a PUSH has no effect but an error: ERR = 1, MODE = FINISHED, length (41 R150, 60 R250, R252, R255;
95 V-ERR-2, V-ERR-5, V-ERR-7, V-ERR-9, V-ERR-10). -/
def Obligations.PushThatAbsorbsNothing : Prop :=
  ∀ (n : Nat) (s : State), 1 ≤ n → n ≤ 4 →
    (s.err = true → exec (.push n) s = .next s) ∧
    (s.err = false → s.mode = .finished →
      exec (.push n) s = .next { s with err := true, errcode := .sequence }) ∧
    (s.err = false → s.mode = .active → 2 ^ 64 - 1 < s.l.toNat + 8 * n →
      exec (.push n) s = .next { s with err := true, errcode := .length })

/-- A PUSH that stays inside the block: its n bytes go to BUF[BC..BC+n-1], BC and L count them, and nothing else
changes (41 R150). That the bytes of BUF beyond them, W, a..h and t stay too is the model's reading (log 11). -/
def Obligations.PushInsideTheBlock : Prop :=
  ∀ (n : Nat) (s : State), 1 ≤ n → n ≤ 4 → s.err = false → s.mode = .active →
    s.l.toNat + 8 * n ≤ 2 ^ 64 - 1 → s.bc.toNat + n < 64 →
    ∃ t, exec (.push n) s = .next t ∧
      t = { s with buf := t.buf, bc := t.bc, l := t.l } ∧
      t.bc.toNat = s.bc.toNat + n ∧ t.l.toNat = s.l.toNat + 8 * n ∧
      ∀ (p : Nat) (_ : p < 64),
        t.buf[p] = if s.bc.toNat ≤ p ∧ p < s.bc.toNat + n
          then s.opA.extractLsb' (24 - 8 * (p - s.bc.toNat)) 8 else s.buf[p]

/-- A PUSH that fills the block: BUF with the first 64 - BC bytes is compressed into H, the rest of the bytes start
the next block at BUF[0], and nothing else the host can tell of changes (41 R150, 20 R58). W, a..h, t are free values
from there on (43 R195; log 2), numbered by `fresh`. That the bytes of BUF at and beyond the new BC are still those of
the full block is the model's reading (log 11): 93 I2 lets them be anything. -/
def Obligations.PushFillingTheBlock : Prop :=
  ∀ (n : Nat) (s : State), 1 ≤ n → n ≤ 4 → s.err = false → s.mode = .active →
    s.l.toNat + 8 * n ≤ 2 ^ 64 - 1 → 64 ≤ s.bc.toNat + n →
    ∃ (t : State) (full : Block), exec (.push n) s = .next t ∧
      (∀ (p : Nat) (_ : p < 64),
        full[p] = if s.bc.toNat ≤ p then s.opA.extractLsb' (24 - 8 * (p - s.bc.toNat)) 8 else s.buf[p]) ∧
      t.h = blockFunction s.h full ∧
      t.bc.toNat = s.bc.toNat + n - 64 ∧ t.l.toNat = s.l.toNat + 8 * n ∧
      (∀ (p : Nat) (_ : p < 64),
        t.buf[p] = if p < s.bc.toNat + n - 64
          then s.opA.extractLsb' (24 - 8 * (p + 64 - s.bc.toNat)) 8 else full[p]) ∧
      t = { s with h := t.h, buf := t.buf, bc := t.bc, l := t.l, w := t.w, work := t.work, t := t.t,
                   phase := .idle, fresh := t.fresh }

/-- The two ways a FINAL has no effect but an error (41 R151, 60 R250, R253; 95 V-ERR-3, V-ERR-6). -/
def Obligations.FinalThatFinishesNothing : Prop :=
  (∀ s : State, s.err = true → exec .final s = .next s) ∧
  (∀ s : State, s.err = false → s.mode = .finished →
    exec .final s = .next { s with err := true, errcode := .sequence })

/-- FINAL of a message in progress: the buffered bytes, 0x80, zeros and the length make one block when BC ≤ 55 and two
when BC ≥ 56, compressed in order; BC = 0, MODE = FINISHED, L and everything else the host can tell of unchanged
(41 R143, R151). That BUF keeps its bytes is the model's reading (log 11): with BC = 0 they are all unobservable, and
93 I2 lets them be anything. W, a..h, t are free values (log 2). -/
def Obligations.FinalFinishesTheMessage : Prop :=
  ∀ s : State, s.err = false → s.mode = .active →
    let bytes := s.buf.toList.take s.bc.toNat ++ [0x80] ++
      List.replicate (if s.bc.toNat ≤ 55 then 55 - s.bc.toNat else 119 - s.bc.toNat) 0 ++ be64 s.l
    ∃ t, exec .final s = .next t ∧
      t.h = (if s.bc.toNat ≤ 55 then blockFunction s.h (blockAt bytes 0)
        else blockFunction (blockFunction s.h (blockAt bytes 0)) (blockAt bytes 64)) ∧
      bytes.length = (if s.bc.toNat ≤ 55 then 64 else 128) ∧
      t = { s with h := t.h, bc := 0, mode := .finished, w := t.w, work := t.work, t := t.t, phase := .idle,
                   fresh := t.fresh }

/-- 20 R54: the k-th byte of a PUSH is `A[31 - 8k : 24 - 8k]`, and the bits below the n-th byte are ignored. -/
def Obligations.PushByteLanes : Prop :=
  (∀ a : Word, laneBytes 4 a =
    [BitVec.ofNat 8 (a.toNat / 2 ^ 24), BitVec.ofNat 8 (a.toNat / 2 ^ 16),
     BitVec.ofNat 8 (a.toNat / 2 ^ 8), BitVec.ofNat 8 a.toNat]) ∧
  (∀ (n : Nat) (a : Word), n ≤ 4 → laneBytes n a = (laneBytes 4 a).take n) ∧
  (∀ (n : Nat) (a b : Word), 1 ≤ n → n ≤ 4 → a.toNat / 2 ^ (32 - 8 * n) = b.toNat / 2 ^ (32 - 8 * n) →
    ∀ s t : State, s.opA = a → t.opA = b → t = { s with hs := t.hs } →
      ∃ s' t', exec (.push n) s = .next s' ∧ exec (.push n) t = .next t' ∧ t' = { s' with hs := t'.hs })

/-! ## ALU commands -/

/-- 40 R114: an ALU command completes in every state and writes Y only, with a value that depends on nothing but the
data ports it reads (30 R76) and its amount. -/
def Obligations.AluWritesOnlyY : Prop :=
  (∀ i : Instr, i.isAlu = true → ∃ f : Word → Word → Word → Word, ∀ s : State,
    exec i s = .next { s with y := f s.opA s.opB s.opC }) ∧
  (∀ i ∈ [Instr.and, .or, .xor, .add], ∃ f : Word → Word → Word, ∀ s : State,
    exec i s = .next { s with y := f s.opA s.opB }) ∧
  (∀ i ∈ [Instr.not, .ssig0, .ssig1, .bsig0, .bsig1], ∃ f : Word → Word, ∀ s : State,
    exec i s = .next { s with y := f s.opA }) ∧
  (∀ sh ≤ 31, ∀ i ∈ [Instr.rotr sh, .shr sh], ∃ f : Word → Word, ∀ s : State,
    exec i s = .next { s with y := f s.opA })

/-- 40 R115, R116 with R101, R102: ROTR's result bit i is A's bit (i + n) mod 32; SHR's result is floor(A / 2^n);
each for every n = 0..31, each writing Y only. -/
def Obligations.RotateAndShiftResults : Prop :=
  ∀ (n : Nat) (s : State), n ≤ 31 →
    decode (0x40000000 ||| BitVec.ofNat 32 n) = .instr (.rotr n) ∧
    decode (0x41000000 ||| BitVec.ofNat 32 n) = .instr (.shr n) ∧
    (∃ v, exec (.rotr n) s = .next { s with y := v } ∧
      ∀ i < 32, v.getLsbD i = s.opA.getLsbD ((i + n) % 32)) ∧
    (∃ v, exec (.shr n) s = .next { s with y := v } ∧ v.toNat = s.opA.toNat / 2 ^ n)

/-- 40 R117 to R120 with R103: AND, OR, XOR and NOT work bit by bit, each writing Y only. -/
def Obligations.LogicResults : Prop :=
  decode 0x42000000 = .instr .and ∧ decode 0x43000000 = .instr .or ∧
  decode 0x44000000 = .instr .xor ∧ decode 0x45000000 = .instr .not ∧
  ∀ s : State,
    (∃ v, exec .and s = .next { s with y := v } ∧
      ∀ i < 32, v.getLsbD i = (s.opA.getLsbD i && s.opB.getLsbD i)) ∧
    (∃ v, exec .or s = .next { s with y := v } ∧
      ∀ i < 32, v.getLsbD i = (s.opA.getLsbD i || s.opB.getLsbD i)) ∧
    (∃ v, exec .xor s = .next { s with y := v } ∧
      ∀ i < 32, v.getLsbD i = (s.opA.getLsbD i != s.opB.getLsbD i)) ∧
    (∃ v, exec .not s = .next { s with y := v } ∧ ∀ i < 32, v.getLsbD i = !s.opA.getLsbD i)

/-- 40 R121 with R104: ADD's result is the exact sum modulo 2^32, the carry out discarded; Y only. -/
def Obligations.AddResult : Prop :=
  decode 0x46000000 = .instr .add ∧
  ∀ s : State, ∃ v, exec .add s = .next { s with y := v } ∧
    v.toNat = (s.opA.toNat + s.opB.toNat) % 2 ^ 32

/-- 40 R122 to R125 with R105 to R108, bit by bit: a rotation brings bit (i + n) mod 32 to place i, a shift bit i + n
or 0; Y only. -/
def Obligations.SigmaResults : Prop :=
  decode 0x48000000 = .instr .ssig0 ∧ decode 0x49000000 = .instr .ssig1 ∧
  decode 0x4A000000 = .instr .bsig0 ∧ decode 0x4B000000 = .instr .bsig1 ∧
  ∀ s : State,
    let r := fun i n => s.opA.getLsbD ((i + n) % 32)
    let z := fun i n => decide (i + n ≤ 31) && s.opA.getLsbD (i + n)
    (∃ v, exec .ssig0 s = .next { s with y := v } ∧
      ∀ i < 32, v.getLsbD i = (r i 7 ^^ r i 18 ^^ z i 3)) ∧
    (∃ v, exec .ssig1 s = .next { s with y := v } ∧
      ∀ i < 32, v.getLsbD i = (r i 17 ^^ r i 19 ^^ z i 10)) ∧
    (∃ v, exec .bsig0 s = .next { s with y := v } ∧
      ∀ i < 32, v.getLsbD i = (r i 2 ^^ r i 13 ^^ r i 22)) ∧
    (∃ v, exec .bsig1 s = .next { s with y := v } ∧
      ∀ i < 32, v.getLsbD i = (r i 6 ^^ r i 11 ^^ r i 25))

/-- 40 R126, R127 with R109, R110: each bit of CH's result is B's where A has 1 and C's where A has 0; each bit of
MAJ's is the majority; Y only. -/
def Obligations.ChooseAndMajorityResults : Prop :=
  decode 0x4C000000 = .instr .ch ∧ decode 0x4D000000 = .instr .maj ∧
  ∀ s : State,
    (∃ v, exec .ch s = .next { s with y := v } ∧
      ∀ i < 32, v.getLsbD i = if s.opA.getLsbD i then s.opB.getLsbD i else s.opC.getLsbD i) ∧
    (∃ v, exec .maj s = .next { s with y := v } ∧
      ∀ i < 32, v.getLsbD i =
        decide (2 ≤ (s.opA.getLsbD i).toNat + (s.opB.getLsbD i).toNat + (s.opC.getLsbD i).toNat))

/-! ## The block function and the engine -/

/-- 10 R21, R22: each IV word is the first 32 bits of the fractional part of a prime's square root, each K word of its
cube root. (The reading "first 32 bits" is the spec's own inference, 93 G1.) -/
def Obligations.ConstantsAreRootFractions : Prop :=
  let primes := [2, 3, 5, 7, 11, 13, 17, 19, 23, 29, 31, 37, 41, 43, 47, 53, 59, 61, 67, 71, 73, 79, 83, 89, 97, 101,
    103, 107, 109, 113, 127, 131, 137, 139, 149, 151, 157, 163, 167, 173, 179, 181, 191, 193, 197, 199, 211, 223, 227,
    229, 233, 239, 241, 251, 257, 263, 269, 271, 277, 281, 283, 293, 307, 311]
  (∀ i : Fin 8, ∃ r : Nat, r ^ 2 ≤ primes.getD i 0 * 2 ^ 64 ∧ primes.getD i 0 * 2 ^ 64 < (r + 1) ^ 2 ∧
    (iv[i]).toNat = r % 2 ^ 32) ∧
  (∀ i : Fin 64, ∃ r : Nat, r ^ 3 ≤ primes.getD i 0 * 2 ^ 96 ∧ primes.getD i 0 * 2 ^ 96 < (r + 1) ^ 3 ∧
    (kRom[i]).toNat = r % 2 ^ 32)

/-- 42 R170: Expand gives 64 words, the first 16 the block's, each later one the sum modulo 2^32 of four earlier
ones. -/
def Obligations.ExpandFollowsTheRecurrence : Prop :=
  ∀ m : Vector Word 16,
    (expand m).length = 64 ∧
    (∀ (t : Nat) (_ : t < 16), (expand m).getD t 0 = m[t]) ∧
    (∀ t : Nat, 16 ≤ t → t < 64 →
      (expand m).getD t 0 = ssig0 ((expand m).getD (t - 15) 0) + (expand m).getD (t - 7) 0 +
        ssig1 ((expand m).getD (t - 2) 0) + (expand m).getD (t - 16) 0)

/-- A round as the spec's parallel assignment and as the assignments one after another in the listed order give the
same registers (43 R190, R191). -/
def Obligations.RoundUpdatesAreSimultaneous : Prop :=
  ∀ (v : Working) (k w : Word),
    let t1 := v.h + bsig1 v.e + chW v.e v.f v.g + k + w
    let t2 := bsig0 v.a + majW v.a v.b v.c
    roundUpdate v k w = ⟨t1 + t2, v.a, v.b, v.c, v.d + t1, v.e, v.f, v.g⟩ ∧
    (let v1 := { v with h := v.g }
     let v2 := { v1 with g := v1.f }
     let v3 := { v2 with f := v2.e }
     let v4 := { v3 with e := v3.d + t1 }
     let v5 := { v4 with d := v4.c }
     let v6 := { v5 with c := v5.b }
     let v7 := { v6 with b := v6.a }
     { v7 with a := t1 + t2 } = roundUpdate v k w)

/-- The engine's sequence over W, a..h, t and the phase computes ProcessBlock(H, B) into H and leaves every other
architectural register alone (43 R192, R194, R196, 42 R170). That BUF is among those it leaves alone is the model's
reading (log 11), and the step of `fresh`, which numbers what W, a..h and t hold afterwards, is the model's own
(log 2). -/
def Obligations.EngineComputesTheBlockFunction : Prop :=
  ∀ (b : Block) (s : State),
    (s.processBlock b).h = blockFunction s.h b ∧
    s.processBlock b = { s with h := blockFunction s.h b, w := (s.processBlock b).w, work := (s.processBlock b).work,
                                t := (s.processBlock b).t, phase := .idle, fresh := s.fresh + 1 }

/-- After its 48 schedule steps the engine's W is Expand's, and in round t it uses `K[t]` and `W[t]` in increasing t
(42 R170, R172, 43 R193, R196). -/
def Obligations.EngineSequenceFollowsT : Prop :=
  ∀ (b : Block) (s : State),
    (∀ (t : Nat) (_ : t < 64), (State.expandSteps 48 (s.beginExpand b)).w[t] = (expand (blockWords b)).getD t 0) ∧
    (∀ n < 64, (State.roundSteps n s.beginRounds).t.toNat = n ∧ (State.roundSteps n s.beginRounds).phase = .rounds ∧
      (State.roundSteps n s.beginRounds).w = s.w ∧ (State.roundSteps n s.beginRounds).h = s.h) ∧
    (∀ (n : Nat) (_ : n < 64), (State.roundSteps (n + 1) s.beginRounds).work =
      roundUpdate (State.roundSteps n s.beginRounds).work kRom[n] s.w[n]) ∧
    (∀ n < 48, (State.expandSteps n (s.beginExpand b)).t.toNat = 16 + n ∧
      (State.expandSteps n (s.beginExpand b)).phase = .expand ∧
      (State.expandSteps n (s.beginExpand b)).h = s.h)

/-! ## Padding and hashing -/

/-- 41 R142: the padded length is a multiple of 512; the padding is 513 - M bits for M < 448 and 1025 - M for
M ≥ 448, between 66 and 577; q + 1 blocks when r ≤ 446, else q + 2. -/
def Obligations.PadLengthAndBlocks : Prop :=
  ∀ m : List Bool, m.length < 2 ^ 64 →
    let M := (m.length + 1) % 512
    let q := m.length / 512
    let r := m.length % 512
    (pad m).length = m.length + 1 + padZeros m.length + 64 ∧
    (pad m).length % 512 = 0 ∧
    (M < 448 → (pad m).length = m.length + (513 - M)) ∧
    (448 ≤ M → (pad m).length = m.length + (1025 - M)) ∧
    66 ≤ (pad m).length - m.length ∧ (pad m).length - m.length ≤ 577 ∧
    ((pad m).length - m.length = 66 ↔ M = 447) ∧ ((pad m).length - m.length = 577 ↔ M = 448) ∧
    (r ≤ 446 → (pad m).length = 512 * (q + 1)) ∧ (447 ≤ r → (pad m).length = 512 * (q + 2))

/-- 41 R146: the number of blocks of a byte message. For the lengths that R140 leaves out, 2^61 bytes and more, it is
the model's total Pad that is counted (log 15). -/
def Obligations.ByteMessageBlockCount : Prop :=
  ∀ m : List Byte,
    (m.length % 64 ≤ 55 → (paddedBlocks m).length = m.length / 64 + 1) ∧
    (56 ≤ m.length % 64 → (paddedBlocks m).length = m.length / 64 + 2)

/-- 41 R144: the full blocks of a byte message followed by Tail of the rest are exactly the blocks of Pad. -/
def Obligations.TailAgreesWithPad : Prop :=
  ∀ m : List Byte, 8 * m.length < 2 ^ 64 →
    paddedBlocks m =
      blocksOf m ++ blocksOf (tail (m.drop (64 * (m.length / 64))) (BitVec.ofNat 64 (8 * m.length)))

/-- Known answers: the empty message (95 V-KAT-1 as 90 C1 corrects it) and "abc" (95 V-KAT-2), as the host renders
them. -/
def Obligations.KnownAnswers : Prop :=
  digestOf (hashOf []) = 0xe3b0c44298fc1c149afbf4c8996fb92427ae41e4649b934ca495991b7852b855 ∧
  digestOf (hashOf [0x61, 0x62, 0x63]) = 0xba7816bf8f01cfea414140de5dae2223b00361a396177a9cb410ff61f20015ad

/-- 44 R224: from the start of a message, PUSHes, ALU commands and NOPs in any order, then FINAL: every command
completes without an error and H is Hash of the bytes the PUSHes delivered. The length bound is what keeps every PUSH
from raising LENGTH (41 R150). -/
def Obligations.HashEndToEnd : Prop :=
  ∀ (cs : List Command) (f : Command) (s : State), s.messageStart →
    (∀ c ∈ cs, ∃ i, decode c.cmd = .instr i ∧ (i = .nop ∨ i.isAlu = true ∨ ∃ n, i = .push n)) →
    8 * (pushedBytes cs).length ≤ 2 ^ 64 - 1 → decode f.cmd = .instr .final →
    ∃ t, runCommands (cs ++ [f]) s = .next t ∧
      t.h = hashOf (pushedBytes cs) ∧ t.mode = .finished ∧ t.err = false ∧
      t.digest = digestOf (hashOf (pushedBytes cs)) ∧ t.digestValid = true

/-- 44 R224: after FINAL, H, the `digest` port and MODE stay through every command up to the next INIT (a reset
aside). -/
def Obligations.FinishedDigestStays : Prop :=
  ∀ (cs : List Command) (s : State), s.mode = .finished → (∀ c ∈ cs, c.isInit = false) →
    ∃ t, runCommands cs s = .next t ∧ t.h = s.h ∧ t.digest = s.digest ∧ t.mode = .finished

/-- 44 R227: the state after PUSHes depends only on the bytes they deliver together, not on how the bytes are
split. The equal states include W, a..h, t and the stale bytes of BUF, which 43 R195 and 93 I2 leave open: that these
agree too is the model's choice (log 2, the left-over values are numbered by `fresh` alone; log 11). -/
def Obligations.SplitIndependence : Prop :=
  ∀ (ps qs : List Command) (s : State), (∀ c ∈ ps, c.isPush = true) → (∀ c ∈ qs, c.isPush = true) →
    pushedBytes ps = pushedBytes qs → s.err = false → s.mode = .active → s.hs = .idle →
    s.l.toNat + 8 * (pushedBytes ps).length ≤ 2 ^ 64 - 1 →
    ∃ t, runCommands ps s = .next t ∧ runCommands qs s = .next t ∧ t.err = false

/-- Bytes of BUF at or beyond BC, Y, the internal datapath and the model's counter never reach the hash or the status:
states at the same point of a message stay so under every command (10 R24, R30 to R33, 43 R195, 44 R234). -/
def Obligations.StaleStateIsUnobservable : Prop :=
  ∀ (i : Instr) (s t : State), s.sameMessage t → s.opA = t.opA → s.opB = t.opB → s.opC = t.opC →
    ∃ s' t', exec i s = .next s' ∧ exec i t = .next t' ∧ s'.sameMessage t' ∧
      s'.digest = t'.digest ∧ (s.y = t.y → s'.y = t'.y)

/-- 44 R234: after INIT, no state from an earlier message affects later results: from any two states, INIT and then
the same commands leave the same digest and status, and the same L, BC, MODE, ERR and ERRCODE. -/
def Obligations.InitForgetsEarlierMessages : Prop :=
  ∀ (c : Command) (cs : List Command) (s t : State), c.isInit = true →
    ∃ s' t', runCommands (c :: cs) s = .next s' ∧ runCommands (c :: cs) t = .next t' ∧
      s'.sameMessage t' ∧ s'.digest = t'.digest ∧ s'.status = t'.status

/-- PUSHBYTES delivers exactly its bytes, by PUSHes alone, and ROTL rotates left (30 R81). -/
def Obligations.PseudoCommandsExpandRight : Prop :=
  (∀ (enc : List Char → List Byte) (bytes : List Byte),
    pushedBytes (AsmLine.commands enc (.pushBytes bytes)) = bytes ∧
    ∀ c ∈ AsmLine.commands enc (.pushBytes bytes), c.isPush = true) ∧
  (∀ (enc : List Char → List Byte) (a : Word) (n : Nat) (s : State), n ≤ 31 →
    runCommands (AsmLine.commands enc (.rotl a n)) s = .next { s with hs := .idle, y := a.rotateLeft n })

/-! ## Ports -/

/-- 10 R35: the fields of the status word (with the codes of R27), and its values at reset and once BUSY falls after
it. -/
def Obligations.StatusWordFields : Prop :=
  (∀ s : State,
    s.status.getLsbD 0 = s.busy ∧ (s.status.getLsbD 1 = true ↔ s.mode = .finished) ∧
    s.status.getLsbD 2 = s.err ∧ s.status.getLsbD 3 = false ∧
    s.status.extractLsb' 4 2 = s.errcode.bits ∧ (∀ i, 6 ≤ i → s.status.getLsbD i = false)) ∧
  ErrCode.noError.bits = 0 ∧ ErrCode.illegal.bits = 1 ∧ ErrCode.sequence.bits = 2 ∧ ErrCode.length.bits = 3 ∧
  State.reset.status = 0x00000001 ∧ (State.reset.withHs .idle).status = 0x00000000

/-- The digest port shows H in big-endian word order, and byte 4i + k of the serialized digest is
`H[i][31 - 8k : 24 - 8k]` (10 R36, 20 R56). -/
def Obligations.DigestLayout : Prop :=
  ∀ s : State,
    (∀ (i : Nat) (_ : i < 8), s.digest.extractLsb' (224 - 32 * i) 32 = s.h[i]) ∧
    (∀ (i k : Nat) (_ : i < 8), k < 4 → digestByte s.digest (4 * i + k) = s.h[i].extractLsb' (24 - 8 * k) 8)

/-! ## Handshake and reset -/

/-- A step runs the decoded command: at the edge where the pending command completes and `rst = 0`, step is exec of
the decoded command, with the operands sampled at acceptance, after the host's input of the edge is used, and BUSY
falls (44 R220, R229, R233). An illegal word raises ILLEGAL instead. -/
def Obligations.StepRunsTheDecodedCommand : Prop :=
  ∀ (s : State) (c : Command), s.hs = .running c 0 → s.portIn.rst = false →
    (s.advanceHost.opA = c.a ∧ s.advanceHost.opB = c.b ∧ s.advanceHost.opC = c.c) ∧
    (∀ (i : Instr) (t : State), decode c.cmd = .instr i → exec i s.advanceHost = .next t →
      step s = .next { t with hs := .idle }) ∧
    (∀ why, decode c.cmd = .illegal why →
      step s = .next { s.advanceHost.raiseError .illegal with hs := .idle })

/-- At an edge with `rst = 0`, `cmd_valid = 1` and `cmd_ready = 1` the command and its operands are sampled; it
completes at this edge if its latency is 0 and is pending otherwise, with nothing else changed (44 R228, R229,
R230, R233). That W, a..h, t and the phase do not move either is the model's choice (log 6), and `fresh` is its own
(log 4). -/
def Obligations.ReadyCoreAcceptsTheCommand : Prop :=
  ∀ s : State, s.cmdReady = true → s.portIn.rst = false → s.portIn.cmdValid = true →
    step s = performCommand s.portIn.command { s.advanceHost with fresh := s.fresh + 1 } ∨
    ∃ n, step s = .next { s.advanceHost with hs := .running s.portIn.command n, fresh := s.fresh + 1 }

/-- The command and data ports are ignored at every edge that is not an accepting one (44 R228, R233, 70 R284): while
`cmd_ready = 0`, with `rst = 1`, or with `cmd_valid = 0`, the step is the same whatever they carry. -/
def Obligations.PortsIgnoredUnlessAccepting : Prop :=
  ∀ (s : State) (p q : PortIn) (rest : List PortIn), p.rst = q.rst →
    s.cmdReady = false ∨ p.rst = true ∨ (p.cmdValid = false ∧ q.cmdValid = false) →
    step { s with host := p :: rest } = step { s with host := q :: rest }

/-- Every accepted command completes after finitely many edges unless reset intervenes, its whole effect at its
completion edge; until then every architectural register keeps its value (44 R229, R231). That W, a..h, t and the
phase do not move before that edge is the model's choice (log 6: the engine runs inside the completion step). -/
def Obligations.AcceptedCommandCompletes : Prop :=
  ∀ (n : Nat) (c : Command) (s : State), s.hs = .running c n → s.noReset (n + 1) →
    (∀ k ≤ n, Host.Core.run core k s = .next { s with hs := .running c (n - k), host := s.host.drop k }) ∧
    Host.Core.run core (n + 1) s = performCommand c { s with host := s.host.drop (n + 1) }

/-- 70 R280: an edge with `rst = 1`, in any state, abandons the pending command and sets the reset values. (BUF, W,
a..h and t, which the rule leaves unspecified, are not stated.) -/
def Obligations.ResetEdgeSetsTheResetValues : Prop :=
  ∀ s : State, s.portIn.rst = true →
    ∃ t, step s = .next t ∧ t.h = iv ∧ t.l = 0 ∧ t.bc = 0 ∧ t.mode = .active ∧ t.err = false ∧
      t.errcode = .noError ∧ t.y = 0 ∧ t.busy = true ∧ t.cmdReady = false ∧ t.phase = .idle ∧ t.pending? = none ∧
      t.host = s.host.tail

/-- 70 R281: from the state a reset edge leaves, with `rst` low from then on, BUSY stays 1 for finitely many cycles
and then `cmd_ready` becomes 1; through them `status` reads 1, `digest` shows IV and `y` shows 0, and then `status`
reads 0. Where the count starts is the model's reading (log 10), and that BUF, W, a..h and t keep their contents
meanwhile too (log 11). -/
def Obligations.ReleaseFromReset : Prop :=
  ∀ s : State, s.messageStart → s.y = 0 → s.hs = .inReset → (∀ p ∈ s.host, p.rst = false) →
    ∃ T : Nat,
      (∀ k ≤ T, ∃ t, Host.Core.run core k s = .next t ∧
        t.status = 0x00000001 ∧ t.digest = digestOf iv ∧ t.yPort = 0 ∧ t.cmdReady = false) ∧
      (∃ t, Host.Core.run core (T + 1) s = .next t ∧
        t.status = 0x00000000 ∧ t.digest = digestOf iv ∧ t.yPort = 0 ∧ t.cmdReady = true ∧
        t = { s with hs := .idle, host := s.host.drop (T + 1), fresh := t.fresh })

/-- The reset state has the values of 70 R280's table. (BUF, W, a..h and t, which it leaves unspecified, are not
stated.) -/
def Obligations.ResetStateValues : Prop :=
  State.reset.messageStart ∧ State.reset.y = 0 ∧ State.reset.busy = true ∧ State.reset.phase = .idle ∧
  State.reset.pending? = none ∧
  iv = #v[0x6a09e667, 0xbb67ae85, 0x3c6ef372, 0xa54ff53a, 0x510e527f, 0x9b05688c, 0x1f83d9ab, 0x5be0cd19]

/-! ## Whole machine -/

/-- Which command may change which register: H by INIT, PUSH, FINAL; L by INIT, PUSH; BUF by PUSH; BC by INIT, PUSH,
FINAL; MODE by INIT, FINAL; ERR and ERRCODE by INIT, PUSH, FINAL; Y by the ALU commands; W, a..h, t and the phase by
PUSH, FINAL; the handshake and the host's inputs by none (10 R20, R23 to R33, 40 R114, 41 R150, R151, 43 R194, 44 R221,
R222). That BUF is changed by PUSH alone, and W, a..h, t by PUSH and FINAL alone, is the model's reading (log 11): the
spec lets unobservable contents be anything (93 I2). -/
def Obligations.WritersOfEachRegister : Prop :=
  ∀ (i : Instr) (s : State), ∃ t, exec i s = .next t ∧
    (t.h = s.h ∨ i = .init ∨ i = .final ∨ ∃ n, i = .push n) ∧
    (t.l = s.l ∨ i = .init ∨ ∃ n, i = .push n) ∧
    (t.buf = s.buf ∨ ∃ n, i = .push n) ∧
    (t.bc = s.bc ∨ i = .init ∨ i = .final ∨ ∃ n, i = .push n) ∧
    (t.mode = s.mode ∨ i = .init ∨ i = .final) ∧
    ((t.err = s.err ∧ t.errcode = s.errcode) ∨ i = .init ∨ i = .final ∨ ∃ n, i = .push n) ∧
    (t.y = s.y ∨ i.isAlu = true) ∧
    ((t.w = s.w ∧ t.work = s.work ∧ t.t = s.t ∧ t.phase = s.phase) ∨ i = .final ∨ ∃ n, i = .push n) ∧
    t.hs = s.hs ∧ t.host = s.host

/-- The core never stops: every edge, in every state, gives a next state (60 R251, R257, R259, 44 R231). -/
def Obligations.EveryStepGoesOn : Prop :=
  (∀ (i : Instr) (s : State), ∃ t, exec i s = .next t) ∧
  (∀ s : State, ∃ t, step s = .next t)

/-- Registers and outputs change only when a command completes or on reset (10 R37, 20 R61, 44 R229): at every edge
with `rst = 0` that is not the last one of a pending command, either the command accepted at this very edge completes
(latency 0) or every architectural register keeps its value, `digest` and `y` with them, and of `status` only BUSY may
move. The accepting edge of a command that becomes pending is of the second kind. -/
def Obligations.RegistersChangeOnlyAtCompletion : Prop :=
  ∀ s : State, s.portIn.rst = false → (∀ c, s.hs ≠ .running c 0) →
    ∃ t, step s = .next t ∧
      ((s.cmdReady = true ∧ s.portIn.cmdValid = true ∧ t.cmdReady = true ∧
        step s = performCommand s.portIn.command { s.advanceHost with fresh := s.fresh + 1 }) ∨
      (s.sameArchitecture t ∧ t.digest = s.digest ∧ t.yPort = s.yPort ∧
        ∀ i, 1 ≤ i → t.status.getLsbD i = s.status.getLsbD i))

/-- Every step keeps the invariant, whatever the host drives (10 R23, R25, R27). Its last clause, the engine IDLE at
every edge, those of a pending command included, is the model's choice (log 6: the engine runs inside the completion
step). -/
def Obligations.StepKeepsTheInvariant : Prop :=
  ∀ s t : State, s.Inv → step s = .next t → t.Inv

/-- The reset state meets the invariant. -/
def Obligations.ResetMeetsTheInvariant : Prop := State.reset.Inv
end

