-- ==== Sys2Proof/Laws/State.lean ====
section
/-! SUPPORT. What each update of a field leaves in each field, all true by rfl. The proofs are
written `(rfl)`, so that simp rewrites with them and does not take them as definitional: as plain rfl-lemmas they lead
the kernel to unfold the 112 steps of the engine. -/

namespace Sys2Proof.Machine.State

@[simp] theorem withHash_h (s : State) (v : HashState) : (s.withHash v).h = v := (rfl)
@[simp] theorem withHash_l (s : State) (v : HashState) : (s.withHash v).l = s.l := (rfl)
@[simp] theorem withHash_buf (s : State) (v : HashState) : (s.withHash v).buf = s.buf := (rfl)
@[simp] theorem withHash_bc (s : State) (v : HashState) : (s.withHash v).bc = s.bc := (rfl)
@[simp] theorem withHash_mode (s : State) (v : HashState) : (s.withHash v).mode = s.mode := (rfl)
@[simp] theorem withHash_err (s : State) (v : HashState) : (s.withHash v).err = s.err := (rfl)
@[simp] theorem withHash_errcode (s : State) (v : HashState) : (s.withHash v).errcode = s.errcode := (rfl)
@[simp] theorem withHash_y (s : State) (v : HashState) : (s.withHash v).y = s.y := (rfl)
@[simp] theorem withHash_hs (s : State) (v : HashState) : (s.withHash v).hs = s.hs := (rfl)
@[simp] theorem withHash_w (s : State) (v : HashState) : (s.withHash v).w = s.w := (rfl)
@[simp] theorem withHash_work (s : State) (v : HashState) : (s.withHash v).work = s.work := (rfl)
@[simp] theorem withHash_t (s : State) (v : HashState) : (s.withHash v).t = s.t := (rfl)
@[simp] theorem withHash_phase (s : State) (v : HashState) : (s.withHash v).phase = s.phase := (rfl)
@[simp] theorem withHash_host (s : State) (v : HashState) : (s.withHash v).host = s.host := (rfl)
@[simp] theorem withHash_fresh (s : State) (v : HashState) : (s.withHash v).fresh = s.fresh := (rfl)

@[simp] theorem withLength_h (s : State) (v : BitVec 64) : (s.withLength v).h = s.h := (rfl)
@[simp] theorem withLength_l (s : State) (v : BitVec 64) : (s.withLength v).l = v := (rfl)
@[simp] theorem withLength_buf (s : State) (v : BitVec 64) : (s.withLength v).buf = s.buf := (rfl)
@[simp] theorem withLength_bc (s : State) (v : BitVec 64) : (s.withLength v).bc = s.bc := (rfl)
@[simp] theorem withLength_mode (s : State) (v : BitVec 64) : (s.withLength v).mode = s.mode := (rfl)
@[simp] theorem withLength_err (s : State) (v : BitVec 64) : (s.withLength v).err = s.err := (rfl)
@[simp] theorem withLength_errcode (s : State) (v : BitVec 64) : (s.withLength v).errcode = s.errcode := (rfl)
@[simp] theorem withLength_y (s : State) (v : BitVec 64) : (s.withLength v).y = s.y := (rfl)
@[simp] theorem withLength_hs (s : State) (v : BitVec 64) : (s.withLength v).hs = s.hs := (rfl)
@[simp] theorem withLength_w (s : State) (v : BitVec 64) : (s.withLength v).w = s.w := (rfl)
@[simp] theorem withLength_work (s : State) (v : BitVec 64) : (s.withLength v).work = s.work := (rfl)
@[simp] theorem withLength_t (s : State) (v : BitVec 64) : (s.withLength v).t = s.t := (rfl)
@[simp] theorem withLength_phase (s : State) (v : BitVec 64) : (s.withLength v).phase = s.phase := (rfl)
@[simp] theorem withLength_host (s : State) (v : BitVec 64) : (s.withLength v).host = s.host := (rfl)
@[simp] theorem withLength_fresh (s : State) (v : BitVec 64) : (s.withLength v).fresh = s.fresh := (rfl)

@[simp] theorem withBuf_h (s : State) (v : Block) : (s.withBuf v).h = s.h := (rfl)
@[simp] theorem withBuf_l (s : State) (v : Block) : (s.withBuf v).l = s.l := (rfl)
@[simp] theorem withBuf_buf (s : State) (v : Block) : (s.withBuf v).buf = v := (rfl)
@[simp] theorem withBuf_bc (s : State) (v : Block) : (s.withBuf v).bc = s.bc := (rfl)
@[simp] theorem withBuf_mode (s : State) (v : Block) : (s.withBuf v).mode = s.mode := (rfl)
@[simp] theorem withBuf_err (s : State) (v : Block) : (s.withBuf v).err = s.err := (rfl)
@[simp] theorem withBuf_errcode (s : State) (v : Block) : (s.withBuf v).errcode = s.errcode := (rfl)
@[simp] theorem withBuf_y (s : State) (v : Block) : (s.withBuf v).y = s.y := (rfl)
@[simp] theorem withBuf_hs (s : State) (v : Block) : (s.withBuf v).hs = s.hs := (rfl)
@[simp] theorem withBuf_w (s : State) (v : Block) : (s.withBuf v).w = s.w := (rfl)
@[simp] theorem withBuf_work (s : State) (v : Block) : (s.withBuf v).work = s.work := (rfl)
@[simp] theorem withBuf_t (s : State) (v : Block) : (s.withBuf v).t = s.t := (rfl)
@[simp] theorem withBuf_phase (s : State) (v : Block) : (s.withBuf v).phase = s.phase := (rfl)
@[simp] theorem withBuf_host (s : State) (v : Block) : (s.withBuf v).host = s.host := (rfl)
@[simp] theorem withBuf_fresh (s : State) (v : Block) : (s.withBuf v).fresh = s.fresh := (rfl)

@[simp] theorem withBc_h (s : State) (v : BitVec 6) : (s.withBc v).h = s.h := (rfl)
@[simp] theorem withBc_l (s : State) (v : BitVec 6) : (s.withBc v).l = s.l := (rfl)
@[simp] theorem withBc_buf (s : State) (v : BitVec 6) : (s.withBc v).buf = s.buf := (rfl)
@[simp] theorem withBc_bc (s : State) (v : BitVec 6) : (s.withBc v).bc = v := (rfl)
@[simp] theorem withBc_mode (s : State) (v : BitVec 6) : (s.withBc v).mode = s.mode := (rfl)
@[simp] theorem withBc_err (s : State) (v : BitVec 6) : (s.withBc v).err = s.err := (rfl)
@[simp] theorem withBc_errcode (s : State) (v : BitVec 6) : (s.withBc v).errcode = s.errcode := (rfl)
@[simp] theorem withBc_y (s : State) (v : BitVec 6) : (s.withBc v).y = s.y := (rfl)
@[simp] theorem withBc_hs (s : State) (v : BitVec 6) : (s.withBc v).hs = s.hs := (rfl)
@[simp] theorem withBc_w (s : State) (v : BitVec 6) : (s.withBc v).w = s.w := (rfl)
@[simp] theorem withBc_work (s : State) (v : BitVec 6) : (s.withBc v).work = s.work := (rfl)
@[simp] theorem withBc_t (s : State) (v : BitVec 6) : (s.withBc v).t = s.t := (rfl)
@[simp] theorem withBc_phase (s : State) (v : BitVec 6) : (s.withBc v).phase = s.phase := (rfl)
@[simp] theorem withBc_host (s : State) (v : BitVec 6) : (s.withBc v).host = s.host := (rfl)
@[simp] theorem withBc_fresh (s : State) (v : BitVec 6) : (s.withBc v).fresh = s.fresh := (rfl)

@[simp] theorem withMode_h (s : State) (v : Mode) : (s.withMode v).h = s.h := (rfl)
@[simp] theorem withMode_l (s : State) (v : Mode) : (s.withMode v).l = s.l := (rfl)
@[simp] theorem withMode_buf (s : State) (v : Mode) : (s.withMode v).buf = s.buf := (rfl)
@[simp] theorem withMode_bc (s : State) (v : Mode) : (s.withMode v).bc = s.bc := (rfl)
@[simp] theorem withMode_mode (s : State) (v : Mode) : (s.withMode v).mode = v := (rfl)
@[simp] theorem withMode_err (s : State) (v : Mode) : (s.withMode v).err = s.err := (rfl)
@[simp] theorem withMode_errcode (s : State) (v : Mode) : (s.withMode v).errcode = s.errcode := (rfl)
@[simp] theorem withMode_y (s : State) (v : Mode) : (s.withMode v).y = s.y := (rfl)
@[simp] theorem withMode_hs (s : State) (v : Mode) : (s.withMode v).hs = s.hs := (rfl)
@[simp] theorem withMode_w (s : State) (v : Mode) : (s.withMode v).w = s.w := (rfl)
@[simp] theorem withMode_work (s : State) (v : Mode) : (s.withMode v).work = s.work := (rfl)
@[simp] theorem withMode_t (s : State) (v : Mode) : (s.withMode v).t = s.t := (rfl)
@[simp] theorem withMode_phase (s : State) (v : Mode) : (s.withMode v).phase = s.phase := (rfl)
@[simp] theorem withMode_host (s : State) (v : Mode) : (s.withMode v).host = s.host := (rfl)
@[simp] theorem withMode_fresh (s : State) (v : Mode) : (s.withMode v).fresh = s.fresh := (rfl)

@[simp] theorem withError_h (s : State) (e : Bool) (k : ErrCode) : (s.withError e k).h = s.h := (rfl)
@[simp] theorem withError_l (s : State) (e : Bool) (k : ErrCode) : (s.withError e k).l = s.l := (rfl)
@[simp] theorem withError_buf (s : State) (e : Bool) (k : ErrCode) : (s.withError e k).buf = s.buf := (rfl)
@[simp] theorem withError_bc (s : State) (e : Bool) (k : ErrCode) : (s.withError e k).bc = s.bc := (rfl)
@[simp] theorem withError_mode (s : State) (e : Bool) (k : ErrCode) : (s.withError e k).mode = s.mode := (rfl)
@[simp] theorem withError_err (s : State) (e : Bool) (k : ErrCode) : (s.withError e k).err = e := (rfl)
@[simp] theorem withError_errcode (s : State) (e : Bool) (k : ErrCode) : (s.withError e k).errcode = k := (rfl)
@[simp] theorem withError_y (s : State) (e : Bool) (k : ErrCode) : (s.withError e k).y = s.y := (rfl)
@[simp] theorem withError_hs (s : State) (e : Bool) (k : ErrCode) : (s.withError e k).hs = s.hs := (rfl)
@[simp] theorem withError_w (s : State) (e : Bool) (k : ErrCode) : (s.withError e k).w = s.w := (rfl)
@[simp] theorem withError_work (s : State) (e : Bool) (k : ErrCode) : (s.withError e k).work = s.work := (rfl)
@[simp] theorem withError_t (s : State) (e : Bool) (k : ErrCode) : (s.withError e k).t = s.t := (rfl)
@[simp] theorem withError_phase (s : State) (e : Bool) (k : ErrCode) : (s.withError e k).phase = s.phase := (rfl)
@[simp] theorem withError_host (s : State) (e : Bool) (k : ErrCode) : (s.withError e k).host = s.host := (rfl)
@[simp] theorem withError_fresh (s : State) (e : Bool) (k : ErrCode) : (s.withError e k).fresh = s.fresh := (rfl)

@[simp] theorem withY_h (s : State) (v : Word) : (s.withY v).h = s.h := (rfl)
@[simp] theorem withY_l (s : State) (v : Word) : (s.withY v).l = s.l := (rfl)
@[simp] theorem withY_buf (s : State) (v : Word) : (s.withY v).buf = s.buf := (rfl)
@[simp] theorem withY_bc (s : State) (v : Word) : (s.withY v).bc = s.bc := (rfl)
@[simp] theorem withY_mode (s : State) (v : Word) : (s.withY v).mode = s.mode := (rfl)
@[simp] theorem withY_err (s : State) (v : Word) : (s.withY v).err = s.err := (rfl)
@[simp] theorem withY_errcode (s : State) (v : Word) : (s.withY v).errcode = s.errcode := (rfl)
@[simp] theorem withY_y (s : State) (v : Word) : (s.withY v).y = v := (rfl)
@[simp] theorem withY_hs (s : State) (v : Word) : (s.withY v).hs = s.hs := (rfl)
@[simp] theorem withY_w (s : State) (v : Word) : (s.withY v).w = s.w := (rfl)
@[simp] theorem withY_work (s : State) (v : Word) : (s.withY v).work = s.work := (rfl)
@[simp] theorem withY_t (s : State) (v : Word) : (s.withY v).t = s.t := (rfl)
@[simp] theorem withY_phase (s : State) (v : Word) : (s.withY v).phase = s.phase := (rfl)
@[simp] theorem withY_host (s : State) (v : Word) : (s.withY v).host = s.host := (rfl)
@[simp] theorem withY_fresh (s : State) (v : Word) : (s.withY v).fresh = s.fresh := (rfl)

@[simp] theorem withHs_h (s : State) (v : Handshake) : (s.withHs v).h = s.h := (rfl)
@[simp] theorem withHs_l (s : State) (v : Handshake) : (s.withHs v).l = s.l := (rfl)
@[simp] theorem withHs_buf (s : State) (v : Handshake) : (s.withHs v).buf = s.buf := (rfl)
@[simp] theorem withHs_bc (s : State) (v : Handshake) : (s.withHs v).bc = s.bc := (rfl)
@[simp] theorem withHs_mode (s : State) (v : Handshake) : (s.withHs v).mode = s.mode := (rfl)
@[simp] theorem withHs_err (s : State) (v : Handshake) : (s.withHs v).err = s.err := (rfl)
@[simp] theorem withHs_errcode (s : State) (v : Handshake) : (s.withHs v).errcode = s.errcode := (rfl)
@[simp] theorem withHs_y (s : State) (v : Handshake) : (s.withHs v).y = s.y := (rfl)
@[simp] theorem withHs_hs (s : State) (v : Handshake) : (s.withHs v).hs = v := (rfl)
@[simp] theorem withHs_w (s : State) (v : Handshake) : (s.withHs v).w = s.w := (rfl)
@[simp] theorem withHs_work (s : State) (v : Handshake) : (s.withHs v).work = s.work := (rfl)
@[simp] theorem withHs_t (s : State) (v : Handshake) : (s.withHs v).t = s.t := (rfl)
@[simp] theorem withHs_phase (s : State) (v : Handshake) : (s.withHs v).phase = s.phase := (rfl)
@[simp] theorem withHs_host (s : State) (v : Handshake) : (s.withHs v).host = s.host := (rfl)
@[simp] theorem withHs_fresh (s : State) (v : Handshake) : (s.withHs v).fresh = s.fresh := (rfl)

@[simp] theorem withSchedule_h (s : State) (v : Schedule) : (s.withSchedule v).h = s.h := (rfl)
@[simp] theorem withSchedule_l (s : State) (v : Schedule) : (s.withSchedule v).l = s.l := (rfl)
@[simp] theorem withSchedule_buf (s : State) (v : Schedule) : (s.withSchedule v).buf = s.buf := (rfl)
@[simp] theorem withSchedule_bc (s : State) (v : Schedule) : (s.withSchedule v).bc = s.bc := (rfl)
@[simp] theorem withSchedule_mode (s : State) (v : Schedule) : (s.withSchedule v).mode = s.mode := (rfl)
@[simp] theorem withSchedule_err (s : State) (v : Schedule) : (s.withSchedule v).err = s.err := (rfl)
@[simp] theorem withSchedule_errcode (s : State) (v : Schedule) : (s.withSchedule v).errcode = s.errcode := (rfl)
@[simp] theorem withSchedule_y (s : State) (v : Schedule) : (s.withSchedule v).y = s.y := (rfl)
@[simp] theorem withSchedule_hs (s : State) (v : Schedule) : (s.withSchedule v).hs = s.hs := (rfl)
@[simp] theorem withSchedule_w (s : State) (v : Schedule) : (s.withSchedule v).w = v := (rfl)
@[simp] theorem withSchedule_work (s : State) (v : Schedule) : (s.withSchedule v).work = s.work := (rfl)
@[simp] theorem withSchedule_t (s : State) (v : Schedule) : (s.withSchedule v).t = s.t := (rfl)
@[simp] theorem withSchedule_phase (s : State) (v : Schedule) : (s.withSchedule v).phase = s.phase := (rfl)
@[simp] theorem withSchedule_host (s : State) (v : Schedule) : (s.withSchedule v).host = s.host := (rfl)
@[simp] theorem withSchedule_fresh (s : State) (v : Schedule) : (s.withSchedule v).fresh = s.fresh := (rfl)

@[simp] theorem withWorking_h (s : State) (v : Working) : (s.withWorking v).h = s.h := (rfl)
@[simp] theorem withWorking_l (s : State) (v : Working) : (s.withWorking v).l = s.l := (rfl)
@[simp] theorem withWorking_buf (s : State) (v : Working) : (s.withWorking v).buf = s.buf := (rfl)
@[simp] theorem withWorking_bc (s : State) (v : Working) : (s.withWorking v).bc = s.bc := (rfl)
@[simp] theorem withWorking_mode (s : State) (v : Working) : (s.withWorking v).mode = s.mode := (rfl)
@[simp] theorem withWorking_err (s : State) (v : Working) : (s.withWorking v).err = s.err := (rfl)
@[simp] theorem withWorking_errcode (s : State) (v : Working) : (s.withWorking v).errcode = s.errcode := (rfl)
@[simp] theorem withWorking_y (s : State) (v : Working) : (s.withWorking v).y = s.y := (rfl)
@[simp] theorem withWorking_hs (s : State) (v : Working) : (s.withWorking v).hs = s.hs := (rfl)
@[simp] theorem withWorking_w (s : State) (v : Working) : (s.withWorking v).w = s.w := (rfl)
@[simp] theorem withWorking_work (s : State) (v : Working) : (s.withWorking v).work = v := (rfl)
@[simp] theorem withWorking_t (s : State) (v : Working) : (s.withWorking v).t = s.t := (rfl)
@[simp] theorem withWorking_phase (s : State) (v : Working) : (s.withWorking v).phase = s.phase := (rfl)
@[simp] theorem withWorking_host (s : State) (v : Working) : (s.withWorking v).host = s.host := (rfl)
@[simp] theorem withWorking_fresh (s : State) (v : Working) : (s.withWorking v).fresh = s.fresh := (rfl)

@[simp] theorem withIndex_h (s : State) (v : BitVec 6) : (s.withIndex v).h = s.h := (rfl)
@[simp] theorem withIndex_l (s : State) (v : BitVec 6) : (s.withIndex v).l = s.l := (rfl)
@[simp] theorem withIndex_buf (s : State) (v : BitVec 6) : (s.withIndex v).buf = s.buf := (rfl)
@[simp] theorem withIndex_bc (s : State) (v : BitVec 6) : (s.withIndex v).bc = s.bc := (rfl)
@[simp] theorem withIndex_mode (s : State) (v : BitVec 6) : (s.withIndex v).mode = s.mode := (rfl)
@[simp] theorem withIndex_err (s : State) (v : BitVec 6) : (s.withIndex v).err = s.err := (rfl)
@[simp] theorem withIndex_errcode (s : State) (v : BitVec 6) : (s.withIndex v).errcode = s.errcode := (rfl)
@[simp] theorem withIndex_y (s : State) (v : BitVec 6) : (s.withIndex v).y = s.y := (rfl)
@[simp] theorem withIndex_hs (s : State) (v : BitVec 6) : (s.withIndex v).hs = s.hs := (rfl)
@[simp] theorem withIndex_w (s : State) (v : BitVec 6) : (s.withIndex v).w = s.w := (rfl)
@[simp] theorem withIndex_work (s : State) (v : BitVec 6) : (s.withIndex v).work = s.work := (rfl)
@[simp] theorem withIndex_t (s : State) (v : BitVec 6) : (s.withIndex v).t = v := (rfl)
@[simp] theorem withIndex_phase (s : State) (v : BitVec 6) : (s.withIndex v).phase = s.phase := (rfl)
@[simp] theorem withIndex_host (s : State) (v : BitVec 6) : (s.withIndex v).host = s.host := (rfl)
@[simp] theorem withIndex_fresh (s : State) (v : BitVec 6) : (s.withIndex v).fresh = s.fresh := (rfl)

@[simp] theorem withPhase_h (s : State) (v : Phase) : (s.withPhase v).h = s.h := (rfl)
@[simp] theorem withPhase_l (s : State) (v : Phase) : (s.withPhase v).l = s.l := (rfl)
@[simp] theorem withPhase_buf (s : State) (v : Phase) : (s.withPhase v).buf = s.buf := (rfl)
@[simp] theorem withPhase_bc (s : State) (v : Phase) : (s.withPhase v).bc = s.bc := (rfl)
@[simp] theorem withPhase_mode (s : State) (v : Phase) : (s.withPhase v).mode = s.mode := (rfl)
@[simp] theorem withPhase_err (s : State) (v : Phase) : (s.withPhase v).err = s.err := (rfl)
@[simp] theorem withPhase_errcode (s : State) (v : Phase) : (s.withPhase v).errcode = s.errcode := (rfl)
@[simp] theorem withPhase_y (s : State) (v : Phase) : (s.withPhase v).y = s.y := (rfl)
@[simp] theorem withPhase_hs (s : State) (v : Phase) : (s.withPhase v).hs = s.hs := (rfl)
@[simp] theorem withPhase_w (s : State) (v : Phase) : (s.withPhase v).w = s.w := (rfl)
@[simp] theorem withPhase_work (s : State) (v : Phase) : (s.withPhase v).work = s.work := (rfl)
@[simp] theorem withPhase_t (s : State) (v : Phase) : (s.withPhase v).t = s.t := (rfl)
@[simp] theorem withPhase_phase (s : State) (v : Phase) : (s.withPhase v).phase = v := (rfl)
@[simp] theorem withPhase_host (s : State) (v : Phase) : (s.withPhase v).host = s.host := (rfl)
@[simp] theorem withPhase_fresh (s : State) (v : Phase) : (s.withPhase v).fresh = s.fresh := (rfl)

@[simp] theorem withHost_h (s : State) (v : List PortIn) : (s.withHost v).h = s.h := (rfl)
@[simp] theorem withHost_l (s : State) (v : List PortIn) : (s.withHost v).l = s.l := (rfl)
@[simp] theorem withHost_buf (s : State) (v : List PortIn) : (s.withHost v).buf = s.buf := (rfl)
@[simp] theorem withHost_bc (s : State) (v : List PortIn) : (s.withHost v).bc = s.bc := (rfl)
@[simp] theorem withHost_mode (s : State) (v : List PortIn) : (s.withHost v).mode = s.mode := (rfl)
@[simp] theorem withHost_err (s : State) (v : List PortIn) : (s.withHost v).err = s.err := (rfl)
@[simp] theorem withHost_errcode (s : State) (v : List PortIn) : (s.withHost v).errcode = s.errcode := (rfl)
@[simp] theorem withHost_y (s : State) (v : List PortIn) : (s.withHost v).y = s.y := (rfl)
@[simp] theorem withHost_hs (s : State) (v : List PortIn) : (s.withHost v).hs = s.hs := (rfl)
@[simp] theorem withHost_w (s : State) (v : List PortIn) : (s.withHost v).w = s.w := (rfl)
@[simp] theorem withHost_work (s : State) (v : List PortIn) : (s.withHost v).work = s.work := (rfl)
@[simp] theorem withHost_t (s : State) (v : List PortIn) : (s.withHost v).t = s.t := (rfl)
@[simp] theorem withHost_phase (s : State) (v : List PortIn) : (s.withHost v).phase = s.phase := (rfl)
@[simp] theorem withHost_host (s : State) (v : List PortIn) : (s.withHost v).host = v := (rfl)
@[simp] theorem withHost_fresh (s : State) (v : List PortIn) : (s.withHost v).fresh = s.fresh := (rfl)

@[simp] theorem withFresh_h (s : State) (v : Nat) : (s.withFresh v).h = s.h := (rfl)
@[simp] theorem withFresh_l (s : State) (v : Nat) : (s.withFresh v).l = s.l := (rfl)
@[simp] theorem withFresh_buf (s : State) (v : Nat) : (s.withFresh v).buf = s.buf := (rfl)
@[simp] theorem withFresh_bc (s : State) (v : Nat) : (s.withFresh v).bc = s.bc := (rfl)
@[simp] theorem withFresh_mode (s : State) (v : Nat) : (s.withFresh v).mode = s.mode := (rfl)
@[simp] theorem withFresh_err (s : State) (v : Nat) : (s.withFresh v).err = s.err := (rfl)
@[simp] theorem withFresh_errcode (s : State) (v : Nat) : (s.withFresh v).errcode = s.errcode := (rfl)
@[simp] theorem withFresh_y (s : State) (v : Nat) : (s.withFresh v).y = s.y := (rfl)
@[simp] theorem withFresh_hs (s : State) (v : Nat) : (s.withFresh v).hs = s.hs := (rfl)
@[simp] theorem withFresh_w (s : State) (v : Nat) : (s.withFresh v).w = s.w := (rfl)
@[simp] theorem withFresh_work (s : State) (v : Nat) : (s.withFresh v).work = s.work := (rfl)
@[simp] theorem withFresh_t (s : State) (v : Nat) : (s.withFresh v).t = s.t := (rfl)
@[simp] theorem withFresh_phase (s : State) (v : Nat) : (s.withFresh v).phase = s.phase := (rfl)
@[simp] theorem withFresh_host (s : State) (v : Nat) : (s.withFresh v).host = s.host := (rfl)
@[simp] theorem withFresh_fresh (s : State) (v : Nat) : (s.withFresh v).fresh = v := (rfl)

end Sys2Proof.Machine.State
end

