-- ==== Sys2Proof/Laws/Ops.lean ====
section
/-! SUPPORT. What each shared operation can do, said once: recording an error, starting a message, the engine's
frame, absorbing bytes, and the sizes of lanes, tail and blocks. -/

namespace Sys2Proof.Machine

/-! ## Register arrays -/

theorem setByte_getElem (buf : Block) (i : BitVec 6) (v : Byte) (p : Nat) (h : p < 64) :
    (setByte buf i v)[p] = if i.toNat = p then v else buf[p] := by
  simp [setByte, Vector.getElem_set]

theorem setWord_getElem (w : Schedule) (i : BitVec 6) (v : Word) (p : Nat) (h : p < 64) :
    (setWord w i v)[p] = if i.toNat = p then v else w[p] := by
  simp [setWord, Vector.getElem_set]

theorem wordAt_eq (w : Schedule) (i : BitVec 6) : wordAt w i = w[i.toNat]'i.isLt := rfl

/-! ## Errors and INIT -/

theorem raiseError_of_err {s : State} (code : ErrCode) (h : s.err = true) : s.raiseError code = s := by
  simp [State.raiseError, h]

theorem raiseError_of_no_err {s : State} (code : ErrCode) (h : s.err = false) :
    s.raiseError code = s.withError true code := by
  simp [State.raiseError, h]

@[simp] theorem raiseError_err (s : State) (code : ErrCode) : (s.raiseError code).err = true := by
  cases h : s.err <;> simp [State.raiseError, h]

/-- `raise` writes ERR and ERRCODE only. -/
theorem raiseError_frame (s : State) (code : ErrCode) :
    s.raiseError code = s.withError true (if s.err then s.errcode else code) := by
  cases h : s.err
  · simp [State.raiseError, h]
  · rw [raiseError_of_err code h, if_pos rfl, State.withError, ← h]

theorem startMessage_eq (s : State) :
    s.startMessage =
      { s with h := iv, l := 0, bc := 0, mode := .active, err := false, errcode := .noError } := rfl

/-! ## The engine's frame -/

/-- The schedule steps write W and t only. -/
theorem expandSteps_frame (n : Nat) (s : State) :
    State.expandSteps n s = { s with w := (State.expandSteps n s).w, t := (State.expandSteps n s).t } := by
  induction n generalizing s with
  | zero => rfl
  | succ n ih => rw [State.expandSteps, ih s.expandStep]; rfl

/-- The rounds write a..h and t only. -/
theorem roundSteps_frame (n : Nat) (s : State) :
    State.roundSteps n s = { s with work := (State.roundSteps n s).work, t := (State.roundSteps n s).t } := by
  induction n generalizing s with
  | zero => rfl
  | succ n ih => rw [State.roundSteps, ih s.roundStep]; rfl

section
variable (n : Nat) (s : State)

@[simp] theorem expandSteps_h : (State.expandSteps n s).h = s.h := by rw [expandSteps_frame]
@[simp] theorem expandSteps_l : (State.expandSteps n s).l = s.l := by rw [expandSteps_frame]
@[simp] theorem expandSteps_buf : (State.expandSteps n s).buf = s.buf := by rw [expandSteps_frame]
@[simp] theorem expandSteps_bc : (State.expandSteps n s).bc = s.bc := by rw [expandSteps_frame]
@[simp] theorem expandSteps_mode : (State.expandSteps n s).mode = s.mode := by rw [expandSteps_frame]
@[simp] theorem expandSteps_err : (State.expandSteps n s).err = s.err := by rw [expandSteps_frame]
@[simp] theorem expandSteps_errcode : (State.expandSteps n s).errcode = s.errcode := by rw [expandSteps_frame]
@[simp] theorem expandSteps_y : (State.expandSteps n s).y = s.y := by rw [expandSteps_frame]
@[simp] theorem expandSteps_hs : (State.expandSteps n s).hs = s.hs := by rw [expandSteps_frame]
@[simp] theorem expandSteps_host : (State.expandSteps n s).host = s.host := by rw [expandSteps_frame]
@[simp] theorem expandSteps_fresh : (State.expandSteps n s).fresh = s.fresh := by rw [expandSteps_frame]
@[simp] theorem expandSteps_phase : (State.expandSteps n s).phase = s.phase := by rw [expandSteps_frame]
@[simp] theorem roundSteps_h : (State.roundSteps n s).h = s.h := by rw [roundSteps_frame]
@[simp] theorem roundSteps_w : (State.roundSteps n s).w = s.w := by rw [roundSteps_frame]
@[simp] theorem roundSteps_l : (State.roundSteps n s).l = s.l := by rw [roundSteps_frame]
@[simp] theorem roundSteps_buf : (State.roundSteps n s).buf = s.buf := by rw [roundSteps_frame]
@[simp] theorem roundSteps_bc : (State.roundSteps n s).bc = s.bc := by rw [roundSteps_frame]
@[simp] theorem roundSteps_mode : (State.roundSteps n s).mode = s.mode := by rw [roundSteps_frame]
@[simp] theorem roundSteps_err : (State.roundSteps n s).err = s.err := by rw [roundSteps_frame]
@[simp] theorem roundSteps_errcode : (State.roundSteps n s).errcode = s.errcode := by rw [roundSteps_frame]
@[simp] theorem roundSteps_y : (State.roundSteps n s).y = s.y := by rw [roundSteps_frame]
@[simp] theorem roundSteps_hs : (State.roundSteps n s).hs = s.hs := by rw [roundSteps_frame]
@[simp] theorem roundSteps_host : (State.roundSteps n s).host = s.host := by rw [roundSteps_frame]
@[simp] theorem roundSteps_fresh : (State.roundSteps n s).fresh = s.fresh := by rw [roundSteps_frame]
@[simp] theorem roundSteps_phase : (State.roundSteps n s).phase = s.phase := by rw [roundSteps_frame]

end

/-! The engine does not look at the handshake. -/

theorem expandSteps_withHs (n : Nat) (s : State) (v : Handshake) :
    State.expandSteps n (s.withHs v) = (State.expandSteps n s).withHs v := by
  induction n generalizing s with
  | zero => rfl
  | succ n ih => rw [State.expandSteps, State.expandSteps, ← ih s.expandStep]; rfl

theorem roundSteps_withHs (n : Nat) (s : State) (v : Handshake) :
    State.roundSteps n (s.withHs v) = (State.roundSteps n s).withHs v := by
  induction n generalizing s with
  | zero => rfl
  | succ n ih => rw [State.roundSteps, State.roundSteps, ← ih s.roundStep]; rfl

/-! The two numbers of steps stay variables here: with numerals in their place a proof checker may unfold the
112 steps. -/

section
variable (nw nr : Nat) (b : Block) (s : State)

theorem blockSequence_l : (s.blockSequence nw nr b).l = s.l := by
  simp [State.blockSequence, State.endBlock, State.feed, State.beginRounds, State.beginExpand]
theorem blockSequence_buf : (s.blockSequence nw nr b).buf = s.buf := by
  simp [State.blockSequence, State.endBlock, State.feed, State.beginRounds, State.beginExpand]
theorem blockSequence_bc : (s.blockSequence nw nr b).bc = s.bc := by
  simp [State.blockSequence, State.endBlock, State.feed, State.beginRounds, State.beginExpand]
theorem blockSequence_mode : (s.blockSequence nw nr b).mode = s.mode := by
  simp [State.blockSequence, State.endBlock, State.feed, State.beginRounds, State.beginExpand]
theorem blockSequence_err : (s.blockSequence nw nr b).err = s.err := by
  simp [State.blockSequence, State.endBlock, State.feed, State.beginRounds, State.beginExpand]
theorem blockSequence_errcode : (s.blockSequence nw nr b).errcode = s.errcode := by
  simp [State.blockSequence, State.endBlock, State.feed, State.beginRounds, State.beginExpand]
theorem blockSequence_y : (s.blockSequence nw nr b).y = s.y := by
  simp [State.blockSequence, State.endBlock, State.feed, State.beginRounds, State.beginExpand]
theorem blockSequence_hs : (s.blockSequence nw nr b).hs = s.hs := by
  simp [State.blockSequence, State.endBlock, State.feed, State.beginRounds, State.beginExpand]
theorem blockSequence_host : (s.blockSequence nw nr b).host = s.host := by
  simp [State.blockSequence, State.endBlock, State.feed, State.beginRounds, State.beginExpand]
theorem blockSequence_w : (s.blockSequence nw nr b).w = Config.leftoverSchedule s.fresh := by
  simp [State.blockSequence, State.endBlock, State.feed, State.beginRounds, State.beginExpand]
theorem blockSequence_work : (s.blockSequence nw nr b).work = Working.ofHash (Config.leftoverWorking s.fresh) := by
  simp [State.blockSequence, State.endBlock, State.feed, State.beginRounds, State.beginExpand]
theorem blockSequence_t : (s.blockSequence nw nr b).t = Config.leftoverIndex s.fresh := by
  simp [State.blockSequence, State.endBlock, State.feed, State.beginRounds, State.beginExpand]
theorem blockSequence_phase : (s.blockSequence nw nr b).phase = .idle := by
  simp [State.blockSequence, State.endBlock, State.feed, State.beginRounds, State.beginExpand]
theorem blockSequence_fresh : (s.blockSequence nw nr b).fresh = s.fresh + 1 := by
  simp [State.blockSequence, State.endBlock, State.feed, State.beginRounds, State.beginExpand]

theorem blockSequence_withHs (v : Handshake) :
    (s.withHs v).blockSequence nw nr b = (s.blockSequence nw nr b).withHs v := by
  have he : (s.withHs v).beginExpand b = (s.beginExpand b).withHs v := rfl
  have hr (u : State) : (u.withHs v).beginRounds = u.beginRounds.withHs v := rfl
  have hf (u : State) : (u.withHs v).feed.endBlock = u.feed.endBlock.withHs v := rfl
  simp only [State.blockSequence, he, expandSteps_withHs, hr, roundSteps_withHs, hf]

/-- H after the sequence: the feed-forward of the last round's registers. -/
theorem blockSequence_h :
    (s.blockSequence nw nr b).h =
      feedForward s.h (State.roundSteps nr (State.expandSteps nw (s.beginExpand b)).beginRounds).work := by
  simp [State.blockSequence, State.endBlock, State.feed, State.beginRounds, State.beginExpand]

end

section
variable (b : Block) (s : State)

@[simp] theorem processBlock_l : (s.processBlock b).l = s.l := blockSequence_l 48 64 b s
@[simp] theorem processBlock_buf : (s.processBlock b).buf = s.buf := blockSequence_buf 48 64 b s
@[simp] theorem processBlock_bc : (s.processBlock b).bc = s.bc := blockSequence_bc 48 64 b s
@[simp] theorem processBlock_mode : (s.processBlock b).mode = s.mode := blockSequence_mode 48 64 b s
@[simp] theorem processBlock_err : (s.processBlock b).err = s.err := blockSequence_err 48 64 b s
@[simp] theorem processBlock_errcode : (s.processBlock b).errcode = s.errcode := blockSequence_errcode 48 64 b s
@[simp] theorem processBlock_y : (s.processBlock b).y = s.y := blockSequence_y 48 64 b s
@[simp] theorem processBlock_hs : (s.processBlock b).hs = s.hs := blockSequence_hs 48 64 b s
@[simp] theorem processBlock_host : (s.processBlock b).host = s.host := blockSequence_host 48 64 b s
@[simp] theorem processBlock_w : (s.processBlock b).w = Config.leftoverSchedule s.fresh := blockSequence_w 48 64 b s
@[simp] theorem processBlock_work : (s.processBlock b).work = Working.ofHash (Config.leftoverWorking s.fresh) := blockSequence_work 48 64 b s
@[simp] theorem processBlock_t : (s.processBlock b).t = Config.leftoverIndex s.fresh := blockSequence_t 48 64 b s
@[simp] theorem processBlock_phase : (s.processBlock b).phase = .idle := blockSequence_phase 48 64 b s
@[simp] theorem processBlock_fresh : (s.processBlock b).fresh = s.fresh + 1 := blockSequence_fresh 48 64 b s

theorem processBlock_withHs (v : Handshake) : (s.withHs v).processBlock b = (s.processBlock b).withHs v :=
  blockSequence_withHs 48 64 b s v

/-- Processing a block writes H and the internal datapath, and uses one free value's number. -/
theorem processBlock_frame :
    s.processBlock b =
      { s with h := (s.processBlock b).h, w := Config.leftoverSchedule s.fresh,
               work := Working.ofHash (Config.leftoverWorking s.fresh), t := Config.leftoverIndex s.fresh,
               phase := .idle, fresh := s.fresh + 1 } := by
  ext1 <;> simp

end

/-! ## Absorbing bytes -/

/-- A byte that does not fill the block. -/
theorem absorbByte_inside (b : Byte) {s : State} (h : s.bc.toNat + 1 ≠ 64) :
    s.absorbByte b = { s with buf := setByte s.buf s.bc b, l := s.l + 8, bc := s.bc + 1 } := by
  simp only [State.absorbByte, if_neg h]; rfl

/-- The byte that fills the block. -/
theorem absorbByte_full (b : Byte) {s : State} (h : s.bc.toNat + 1 = 64) :
    s.absorbByte b =
      ({ s with buf := setByte s.buf s.bc b, l := s.l + 8 }.processBlock (setByte s.buf s.bc b)).withBc 0 := by
  simp only [State.absorbByte, if_pos h]; rfl

theorem absorbByte_l (b : Byte) (s : State) : (s.absorbByte b).l = s.l + 8 := by
  by_cases h : s.bc.toNat + 1 = 64
  · simp [absorbByte_full b h]
  · simp [absorbByte_inside b h]

theorem absorbByte_bc (b : Byte) (s : State) : (s.absorbByte b).bc = s.bc + 1 := by
  by_cases h : s.bc.toNat + 1 = 64
  · rw [absorbByte_full b h, State.withBc_bc]
    apply BitVec.eq_of_toNat_eq; simp [BitVec.toNat_add, h]
  · simp [absorbByte_inside b h]

theorem absorbByte_buf (b : Byte) (s : State) : (s.absorbByte b).buf = setByte s.buf s.bc b := by
  by_cases h : s.bc.toNat + 1 = 64
  · simp [absorbByte_full b h]
  · simp [absorbByte_inside b h]

section
variable (b : Byte) (s : State)

@[simp] theorem absorbByte_mode : (s.absorbByte b).mode = s.mode := by simp only [State.absorbByte]; split <;> simp
@[simp] theorem absorbByte_err : (s.absorbByte b).err = s.err := by simp only [State.absorbByte]; split <;> simp
@[simp] theorem absorbByte_errcode : (s.absorbByte b).errcode = s.errcode := by
  simp only [State.absorbByte]; split <;> simp
@[simp] theorem absorbByte_y : (s.absorbByte b).y = s.y := by simp only [State.absorbByte]; split <;> simp
@[simp] theorem absorbByte_hs : (s.absorbByte b).hs = s.hs := by simp only [State.absorbByte]; split <;> simp
@[simp] theorem absorbByte_host : (s.absorbByte b).host = s.host := by simp only [State.absorbByte]; split <;> simp

end

@[simp] theorem absorb_nil (s : State) : s.absorb [] = s := rfl

@[simp] theorem absorb_cons (b : Byte) (bs : List Byte) (s : State) :
    s.absorb (b :: bs) = (s.absorbByte b).absorb bs := rfl

theorem absorb_append (bs cs : List Byte) (s : State) : s.absorb (bs ++ cs) = (s.absorb bs).absorb cs := by
  simp [State.absorb]

section
variable (bs : List Byte) (s : State)

@[simp] theorem absorb_mode : (s.absorb bs).mode = s.mode := by induction bs generalizing s <;> simp_all
@[simp] theorem absorb_err : (s.absorb bs).err = s.err := by induction bs generalizing s <;> simp_all
@[simp] theorem absorb_errcode : (s.absorb bs).errcode = s.errcode := by induction bs generalizing s <;> simp_all
@[simp] theorem absorb_y : (s.absorb bs).y = s.y := by induction bs generalizing s <;> simp_all
@[simp] theorem absorb_hs : (s.absorb bs).hs = s.hs := by induction bs generalizing s <;> simp_all
@[simp] theorem absorb_host : (s.absorb bs).host = s.host := by induction bs generalizing s <;> simp_all

end

theorem absorbByte_withHs (b : Byte) (s : State) (v : Handshake) :
    (s.withHs v).absorbByte b = (s.absorbByte b).withHs v := by
  by_cases h : s.bc.toNat + 1 = 64
  · have e : (s.withHs v).absorbByte b =
        ((({ s with buf := setByte s.buf s.bc b, l := s.l + 8 } : State).withHs v).processBlock
          (setByte s.buf s.bc b)).withBc 0 := absorbByte_full (s := s.withHs v) b h
    rw [e, processBlock_withHs, absorbByte_full b h]
    generalize State.processBlock _ _ = u
    rfl
  · rw [absorbByte_inside b h, absorbByte_inside (s := s.withHs v) b h]; rfl

/-- Absorbing bytes does not look at the handshake: with other sampled operands it is the same. -/
theorem absorb_withHs (bs : List Byte) (s : State) (v : Handshake) :
    (s.withHs v).absorb bs = (s.absorb bs).withHs v := by
  induction bs generalizing s with
  | nil => rfl
  | cons b bs ih => rw [absorb_cons, absorb_cons, absorbByte_withHs, ih]

/-- L counts eight bits a byte, as long as the message fits (10 R23). -/
theorem absorb_l_toNat (bs : List Byte) (s : State) (h : s.l.toNat + 8 * bs.length < 2 ^ 64) :
    (s.absorb bs).l.toNat = s.l.toNat + 8 * bs.length := by
  induction bs generalizing s with
  | nil => simp
  | cons b bs ih =>
    simp only [List.length_cons] at h
    have hl : (s.absorbByte b).l.toNat = s.l.toNat + 8 := by
      rw [absorbByte_l, BitVec.toNat_add]; simp only [BitVec.reduceToNat]; omega
    rw [absorb_cons, ih _ (by omega), hl, List.length_cons]; omega

/-- BC counts the bytes modulo 64 (10 R25). -/
theorem absorb_bc_toNat (bs : List Byte) (s : State) :
    (s.absorb bs).bc.toNat = (s.bc.toNat + bs.length) % 64 := by
  induction bs generalizing s with
  | nil => simp [Nat.mod_eq_of_lt s.bc.isLt]
  | cons b bs ih =>
    rw [absorb_cons, ih, absorbByte_bc, BitVec.toNat_add, List.length_cons]
    simp only [BitVec.reduceToNat]; omega

theorem absorb_phase (bs : List Byte) (s : State) (h : s.phase = .idle) : (s.absorb bs).phase = .idle := by
  induction bs generalizing s with
  | nil => simpa using h
  | cons b bs ih =>
    apply ih
    simp only [State.absorbByte]; split <;> simp [h]

/-! ## Sizes -/

@[simp] theorem laneBytes_length (n : Nat) (a : Word) : (laneBytes n a).length = n := by simp [laneBytes]

@[simp] theorem be64_length (l : BitVec 64) : (be64 l).length = 8 := by simp [be64]

@[simp] theorem buffered_length (s : State) : s.buffered.length = s.bc.toNat := by
  have := s.bc.isLt; simp [State.buffered]; omega

/-- The tail is one block or two (41 R143). -/
theorem tail_length (bbuf : List Byte) (l : BitVec 64) (h : bbuf.length ≤ 63) :
    (tail bbuf l).length = if bbuf.length ≤ 55 then 64 else 128 := by
  simp only [tail, tailZeros, zeros, List.length_append, List.length_replicate, List.length_singleton, be64_length]
  split <;> omega

end Sys2Proof.Machine
end

