-- ==== Sys2Proof/Laws/Meanings.lean ====
section
/-! SUPPORT. The cases of PUSH and FINAL (41 R150, R151), each once; what every command's next state is. -/

namespace Sys2Proof.Machine

theorem execPush_of_err {n : Nat} {s : State} (h : s.err = true) : execPush n s = .next s := by
  simp [execPush, h]

theorem execPush_of_finished {n : Nat} {s : State} (h : s.err = false) (hm : s.mode = .finished) :
    execPush n s = .next (s.withError true .sequence) := by
  simp [execPush, h, hm, raiseError_of_no_err _ h]

theorem execPush_of_long {n : Nat} {s : State} (h : s.err = false) (hm : s.mode = .active)
    (hl : maxLength < s.l.toNat + 8 * n) : execPush n s = .next (s.withError true .length) := by
  simp [execPush, h, hm, hl, raiseError_of_no_err _ h]

theorem execPush_of_ok {n : Nat} {s : State} (h : s.err = false) (hm : s.mode = .active)
    (hl : s.l.toNat + 8 * n ≤ maxLength) : execPush n s = .next (s.absorb (laneBytes n s.opA)) := by
  simp [execPush, h, hm, Nat.not_lt.mpr hl]

theorem execFinal_of_err {s : State} (h : s.err = true) : execFinal s = .next s := by
  simp [execFinal, h]

theorem execFinal_of_finished {s : State} (h : s.err = false) (hm : s.mode = .finished) :
    execFinal s = .next (s.withError true .sequence) := by
  simp [execFinal, h, hm, raiseError_of_no_err _ h]

theorem execFinal_of_ok {s : State} (h : s.err = false) (hm : s.mode = .active) :
    execFinal s = .next s.finish := by
  simp [execFinal, h, hm]

/-- FINAL's effect by the number of buffered bytes: one block up to 55, two from 56 (41 R143, R151). -/
theorem finish_eq (s : State) :
    s.finish =
      (((if s.bc.toNat ≤ 55 then s.processBlock (blockAt (tail s.buffered s.l) 0)
        else (s.processBlock (blockAt (tail s.buffered s.l) 0)).processBlock
          (blockAt (tail s.buffered s.l) 64)).withBc 0).withMode .finished) := by
  have hlen := tail_length s.buffered s.l (by have := s.bc.isLt; simp only [buffered_length]; omega)
  rw [buffered_length] at hlen
  unfold State.finish
  simp only [hlen]
  split <;> simp

section
variable (s : State)

@[simp] theorem finish_bc : s.finish.bc = 0 := rfl
@[simp] theorem finish_mode : s.finish.mode = .finished := rfl
@[simp] theorem finish_l : s.finish.l = s.l := by rw [finish_eq]; split <;> simp
@[simp] theorem finish_buf : s.finish.buf = s.buf := by rw [finish_eq]; split <;> simp
@[simp] theorem finish_err : s.finish.err = s.err := by rw [finish_eq]; split <;> simp
@[simp] theorem finish_errcode : s.finish.errcode = s.errcode := by rw [finish_eq]; split <;> simp
@[simp] theorem finish_y : s.finish.y = s.y := by rw [finish_eq]; split <;> simp
@[simp] theorem finish_hs : s.finish.hs = s.hs := by rw [finish_eq]; split <;> simp
@[simp] theorem finish_host : s.finish.host = s.host := by rw [finish_eq]; split <;> simp
@[simp] theorem finish_phase : s.finish.phase = .idle := by rw [finish_eq]; split <;> simp

end

/-- What PUSH can do: nothing, record SEQUENCE or LENGTH, or absorb its bytes. -/
theorem execPush_cases (n : Nat) (s : State) :
    (s.err = true ∧ execPush n s = .next s) ∨
    (s.err = false ∧ s.mode = .finished ∧ execPush n s = .next (s.withError true .sequence)) ∨
    (s.err = false ∧ s.mode = .active ∧ maxLength < s.l.toNat + 8 * n ∧
      execPush n s = .next (s.withError true .length)) ∨
    (s.err = false ∧ s.mode = .active ∧ s.l.toNat + 8 * n ≤ maxLength ∧
      execPush n s = .next (s.absorb (laneBytes n s.opA))) := by
  cases h : s.err
  case true => exact .inl ⟨rfl, execPush_of_err h⟩
  cases hm : s.mode
  case finished => exact .inr (.inl ⟨rfl, rfl, execPush_of_finished h hm⟩)
  by_cases hl : s.l.toNat + 8 * n ≤ maxLength
  · exact .inr (.inr (.inr ⟨rfl, rfl, hl, execPush_of_ok h hm hl⟩))
  · exact .inr (.inr (.inl ⟨rfl, rfl, Nat.lt_of_not_le hl, execPush_of_long h hm (Nat.lt_of_not_le hl)⟩))

/-- What FINAL can do: nothing, record SEQUENCE, or finish the message. -/
theorem execFinal_cases (s : State) :
    (s.err = true ∧ execFinal s = .next s) ∨
    (s.err = false ∧ s.mode = .finished ∧ execFinal s = .next (s.withError true .sequence)) ∨
    (s.err = false ∧ s.mode = .active ∧ execFinal s = .next s.finish) := by
  cases h : s.err
  case true => exact .inl ⟨rfl, execFinal_of_err h⟩
  cases hm : s.mode
  case finished => exact .inr (.inl ⟨rfl, rfl, execFinal_of_finished h hm⟩)
  exact .inr (.inr ⟨rfl, rfl, execFinal_of_ok h hm⟩)

end Sys2Proof.Machine
end

