-- ==== Sys2Proof/Laws/PerInstr.lean ====
section
/-! SUPPORT. The statements made for each command as syntax: its encoding lies in its own row of 30 R77. -/

namespace Sys2Proof.Laws.EncodingInRow

/-- The encoding of a well-formed command is matched by the row of its mnemonic and by no other (30 R77). -/
def Statement (i : Instr) : Prop :=
  i.wf = true → (opcodeRows.filter fun r => r.hits (encode i)).map OpcodeRow.mnemonic = [i.mnemonic]

theorem nop : Statement .nop := by unfold Statement; decide
theorem init : Statement .init := by unfold Statement; decide
theorem push (n : Nat) : Statement (.push n) := by
  intro h
  simp only [Instr.wf, pushCountOk, Bool.and_eq_true, decide_eq_true_eq] at h
  obtain ⟨h1, h4⟩ := h
  interval_cases n <;> decide
theorem final : Statement .final := by unfold Statement; decide
theorem rotr (sh : Nat) : Statement (.rotr sh) := by
  intro h
  simp only [Instr.wf, shiftAmountOk, decide_eq_true_eq] at h
  interval_cases sh <;> decide
theorem shr (sh : Nat) : Statement (.shr sh) := by
  intro h
  simp only [Instr.wf, shiftAmountOk, decide_eq_true_eq] at h
  interval_cases sh <;> decide
theorem and : Statement .and := by unfold Statement; decide
theorem or : Statement .or := by unfold Statement; decide
theorem xor : Statement .xor := by unfold Statement; decide
theorem not : Statement .not := by unfold Statement; decide
theorem add : Statement .add := by unfold Statement; decide
theorem ssig0 : Statement .ssig0 := by unfold Statement; decide
theorem ssig1 : Statement .ssig1 := by unfold Statement; decide
theorem bsig0 : Statement .bsig0 := by unfold Statement; decide
theorem bsig1 : Statement .bsig1 := by unfold Statement; decide
theorem ch : Statement .ch := by unfold Statement; decide
theorem maj : Statement .maj := by unfold Statement; decide

end Sys2Proof.Laws.EncodingInRow
end

