-- ==== Sys2Proof/Laws/Step.lean ====
section
/-! SUPPORT. What an edge can do, said once for each value of the handshake; what completion and acceptance are; the
operands of a pending command. -/

namespace Sys2Proof.Machine

/-! ## Operands -/

theorem opA_running {s : State} {c : Command} {n : Nat} (h : s.hs = .running c n) : s.opA = c.a := by
  simp [State.opA, State.sampled, State.pending?, h]

theorem opB_running {s : State} {c : Command} {n : Nat} (h : s.hs = .running c n) : s.opB = c.b := by
  simp [State.opB, State.sampled, State.pending?, h]

theorem opC_running {s : State} {c : Command} {n : Nat} (h : s.hs = .running c n) : s.opC = c.c := by
  simp [State.opC, State.sampled, State.pending?, h]

/-- The operands depend on the handshake alone. -/
theorem sampled_congr {s t : State} (port : Command → Word) (h : s.hs = t.hs) :
    s.sampled port = t.sampled port := by
  simp [State.sampled, State.pending?, h]

/-! ## Completion -/

theorem dispatch_illegal {c : Command} {why : Illegal} (s : State) (h : decode c.cmd = .illegal why) :
    dispatch c s = .next (s.raiseError .illegal) := by
  simp [dispatch, h]

theorem dispatch_instr {c : Command} {i : Instr} (s : State) (h : decode c.cmd = .instr i) :
    dispatch c s = exec i s := by
  simp [dispatch, h]

@[simp] theorem clearPending_next (s : State) : clearPending (.next s) = .next (s.withHs .idle) := rfl

/-- A command that completes with a next state leaves the core ready, and the state is otherwise the effect's. -/
theorem completeCommand_cases {c : Command} {s t : State} (h : completeCommand c s = .next t) :
    ∃ u, dispatch c s = .next u ∧ t = u.withHs .idle := by
  unfold completeCommand at h
  cases hd : dispatch c s <;> rw [hd] at h <;> simp [clearPending] at h
  exact ⟨_, rfl, h.symm⟩

/-- Acceptance: the command completes at once, or is pending with some number of edges left (44 R229, R230). -/
theorem acceptCommand_cases (c : Command) (s : State) :
    acceptCommand c s = performCommand c (s.withFresh (s.fresh + 1)) ∨
    ∃ n, acceptCommand c s = .next ((s.withFresh (s.fresh + 1)).withHs (.running c n)) := by
  unfold acceptCommand
  split
  · exact .inl rfl
  · exact .inr ⟨_, rfl⟩

/-- The first edge after reset: ready at once, or BUSY for some edges more (70 R281). -/
theorem releaseEdge_cases (s : State) :
    s.releaseEdge = (s.withHs .idle).withFresh (s.fresh + 1) ∨
    ∃ n, s.releaseEdge = (s.withHs (.releasing n)).withFresh (s.fresh + 1) := by
  unfold State.releaseEdge
  split
  · exact .inl rfl
  · exact .inr ⟨_, rfl⟩

/-! ## One edge -/

theorem step_reset {s : State} (h : s.portIn.rst = true) : step s = .next s.advanceHost.resetEdge := by
  simp [step, clockEdge, h]

theorem step_inReset {s : State} (hr : s.portIn.rst = false) (h : s.hs = .inReset) :
    step s = .next s.advanceHost.releaseEdge := by
  simp [step, clockEdge, hr, h]

theorem step_releasing_zero {s : State} (hr : s.portIn.rst = false) (h : s.hs = .releasing 0) :
    step s = .next (s.advanceHost.withHs .idle) := by
  simp [step, clockEdge, hr, h]

theorem step_releasing_succ {s : State} {n : Nat} (hr : s.portIn.rst = false) (h : s.hs = .releasing (n + 1)) :
    step s = .next (s.advanceHost.withHs (.releasing n)) := by
  simp [step, clockEdge, hr, h]

theorem step_idle_quiet {s : State} (hr : s.portIn.rst = false) (h : s.hs = .idle)
    (hv : s.portIn.cmdValid = false) : step s = .next s.advanceHost := by
  simp [step, clockEdge, hr, h, hv]

theorem step_idle_valid {s : State} (hr : s.portIn.rst = false) (h : s.hs = .idle)
    (hv : s.portIn.cmdValid = true) : step s = acceptCommand s.portIn.command s.advanceHost := by
  simp [step, clockEdge, hr, h, hv]

theorem step_running_zero {s : State} {c : Command} (hr : s.portIn.rst = false) (h : s.hs = .running c 0) :
    step s = completeCommand c s.advanceHost := by
  simp [step, clockEdge, hr, h]

theorem step_running_succ {s : State} {c : Command} {n : Nat} (hr : s.portIn.rst = false)
    (h : s.hs = .running c (n + 1)) : step s = .next (s.advanceHost.withHs (.running c n)) := by
  simp [step, clockEdge, hr, h]

/-- Everything an edge can do: reset; a command completes, at its last edge or at its accepting one; or only the
handshake, the host's list and the counter move. -/
theorem step_cases (s : State) :
    (s.portIn.rst = true ∧ step s = .next s.advanceHost.resetEdge) ∨
    (∃ c, s.portIn.rst = false ∧ s.hs = .running c 0 ∧ step s = completeCommand c s.advanceHost) ∨
    (s.portIn.rst = false ∧ s.hs = .idle ∧ s.portIn.cmdValid = true ∧
      step s = performCommand s.portIn.command (s.advanceHost.withFresh (s.fresh + 1))) ∨
    (s.portIn.rst = false ∧ ∃ hs fresh, step s = .next ((s.advanceHost.withHs hs).withFresh fresh)) := by
  cases hr : s.portIn.rst
  case true => exact .inl ⟨rfl, step_reset hr⟩
  cases h : s.hs with
  | inReset =>
    obtain h1 | ⟨n, h1⟩ := releaseEdge_cases s.advanceHost
    · exact .inr (.inr (.inr ⟨rfl, _, _, by rw [step_inReset hr h, h1]⟩))
    · exact .inr (.inr (.inr ⟨rfl, _, _, by rw [step_inReset hr h, h1]⟩))
  | releasing n =>
    cases n
    · exact .inr (.inr (.inr ⟨rfl, .idle, s.fresh, by rw [step_releasing_zero hr h]; rfl⟩))
    · exact .inr (.inr (.inr ⟨rfl, .releasing _, s.fresh, by rw [step_releasing_succ hr h]; rfl⟩))
  | idle =>
    cases hv : s.portIn.cmdValid
    · exact .inr (.inr (.inr ⟨rfl, s.hs, s.fresh, by rw [step_idle_quiet hr h hv]; rfl⟩))
    · obtain h1 | ⟨n, h1⟩ := acceptCommand_cases s.portIn.command s.advanceHost
      · exact .inr (.inr (.inl ⟨rfl, rfl, rfl, by rw [step_idle_valid hr h hv, h1]; rfl⟩))
      · exact .inr (.inr (.inr ⟨rfl, .running s.portIn.command n, s.fresh + 1, by
          rw [step_idle_valid hr h hv, h1]; rfl⟩))
  | running c n =>
    cases n
    · exact .inr (.inl ⟨c, rfl, rfl, step_running_zero hr h⟩)
    · exact .inr (.inr (.inr ⟨rfl, .running c _, s.fresh, by rw [step_running_succ hr h]; rfl⟩))

/-! ## Several edges -/

section
variable {M : Host.Core}

theorem run_succ_of_next {s t : M.State} (k : Nat) (h : M.step s = .next t) : M.run (k + 1) s = M.run k t := by
  simp only [Host.Core.run, h]

theorem run_one (s : M.State) : M.run 1 s = M.step s := by
  simp only [Host.Core.run]
  cases M.step s <;> rfl

/-- One more step at the end of a run. -/
theorem run_add_one {k : Nat} {s t : M.State} (h : M.run k s = .next t) : M.run (k + 1) s = M.step t := by
  induction k generalizing s with
  | zero =>
    injection h with h
    subst h
    exact run_one s
  | succ k ih =>
    simp only [Host.Core.run] at h
    cases hs : M.step s with
    | next u =>
      rw [hs] at h
      rw [run_succ_of_next (k + 1) hs]
      exact ih h
    | fault r => rw [hs] at h; cases h
    | refused r => rw [hs] at h; cases h

end

end Sys2Proof.Machine
end

