-- ==== Sys2Proof/Tests/Slice0.lean ====
section
/-! SUPPORT. The model's own tests. Expected values are the vectors of spec/95 and the examples of the rules, named in
the docstrings; then one witness for each statement of Obligations.lean that has hypotheses. -/

namespace Sys2Proof.Tests

open Sys2Proof.Machine

/-! ## Helpers -/

/-- The reset state, ready, with a command of the given operands pending. -/
def operands (a b c : Word) : State := State.reset.withHs (.running ⟨0, a, b, c⟩ 0)

/-- Y after a command on the given operands. -/
def yOf (i : Instr) (a b c : Word) : Option Word := (nextOf (exec i (operands a b c))).map State.y

/-- A command word with `data_a`. -/
def cmdA (cmd a : Word) : Command := ⟨cmd, a, 0, 0⟩

/-- The status after a command from a state. -/
def statusAfter (c : Command) (s : State) : Option Word := (nextOf (performCommand c s)).map State.status

/-- The core right after reset's release, ready. -/
def ready : State := State.reset.withHs .idle

/-- FINISHED, no error. -/
def finished : State := ready.withMode .finished

/-- ERR = 1 with ILLEGAL, MODE = ACTIVE. -/
def inError : State := ready.withError true .illegal

/-- A message of L bits with BC bytes buffered, all 0x61. -/
def message (l : BitVec 64) (bc : BitVec 6) : State :=
  ((ready.withBuf (Vector.replicate 64 0x61)).withLength l).withBc bc

/-- A host input that offers a command. -/
def offer (cmd a : Word) : PortIn := ⟨false, true, cmd, a, 0, 0⟩

/-- A host input with `rst = 1`. -/
def resetIn : PortIn := ⟨true, false, 0, 0, 0, 0⟩

/-! ## WellFormed refuses the ill-formed -/

theorem test_wf_push_zero : (Instr.push 0).wf = false := by decide
theorem test_wf_push_five : (Instr.push 5).wf = false := by decide
theorem test_wf_rotr_32 : (Instr.rotr 32).wf = false := by decide
theorem test_wf_shr_32 : (Instr.shr 32).wf = false := by decide
theorem test_wf_bounds : (Instr.push 1).wf = true ∧ (Instr.push 4).wf = true ∧ (Instr.rotr 0).wf = true ∧
    (Instr.rotr 31).wf = true ∧ (Instr.shr 31).wf = true := by decide

/-! ## Decoding: words written out from 30 R71 to R77 (95 V-ENC-1, V-ENC-2) -/

/-- Format N, all 32 bits. -/
theorem test_decode_init_bits : decode 0b00010000000000000000000000000000#32 = .instr .init := by decide
/-- Format P, CNT = 2. -/
theorem test_decode_push_bits : decode 0b00100000000000000000000000000010#32 = .instr (.push 3) := by decide
/-- Format A, FN = 1, SH = 5. -/
theorem test_decode_shr_bits : decode 0b01000001000000000000000000000101#32 = .instr (.shr 5) := by decide
theorem test_decode_nop : decode 0x00000000 = .instr .nop := by decide
theorem test_decode_push : decode 0x20000000 = .instr (.push 1) ∧ decode 0x20000003 = .instr (.push 4) := by decide
theorem test_decode_final : decode 0x30000000 = .instr .final := by decide
theorem test_decode_rotr : decode 0x40000000 = .instr (.rotr 0) ∧ decode 0x4000001F = .instr (.rotr 31) := by decide
theorem test_decode_shr : decode 0x41000000 = .instr (.shr 0) ∧ decode 0x4100001F = .instr (.shr 31) := by decide
theorem test_decode_and : decode 0x42000000 = .instr .and := by decide
theorem test_decode_or : decode 0x43000000 = .instr .or := by decide
theorem test_decode_xor : decode 0x44000000 = .instr .xor := by decide
theorem test_decode_not : decode 0x45000000 = .instr .not := by decide
theorem test_decode_add : decode 0x46000000 = .instr .add := by decide
theorem test_decode_ssig0 : decode 0x48000000 = .instr .ssig0 := by decide
theorem test_decode_ssig1 : decode 0x49000000 = .instr .ssig1 := by decide
theorem test_decode_bsig0 : decode 0x4A000000 = .instr .bsig0 := by decide
theorem test_decode_bsig1 : decode 0x4B000000 = .instr .bsig1 := by decide
theorem test_decode_ch : decode 0x4C000000 = .instr .ch := by decide
theorem test_decode_maj : decode 0x4D000000 = .instr .maj := by decide
/-- The twelve words of 95 V-ENC-2. -/
theorem test_decode_illegal :
    [0x00000001#32, 0x10000001, 0x20000004, 0x30000001, 0x40000020, 0x41800000, 0x42000001, 0x47000000, 0x4E000000,
      0x4F000000, 0x50000000, 0xF0000000].all (fun w => (decode w).instr?.isNone) = true := by decide
/-- 30 R80: the words of the listed operands. -/
theorem test_encode : encode (.push 3) = 0x20000002 ∧ encode (.rotr 28) = 0x4000001C ∧ encode (.shr 4) = 0x41000004 ∧
    encode .maj = 0x4D000000 := by decide
theorem test_decode_table_word : decodeTableWord 32 0x4C000000 = some .ch ∧ decodeTableWord 32 0x47000000 = none := by
  decide

/-! ## ALU commands (95 V-ALU-1 to V-ALU-7) -/

theorem test_rotr_wraps : yOf (.rotr 1) 0x00000001 0 0 = some 0x80000000 := by decide
theorem test_rotr_four : yOf (.rotr 4) 0x12345678 0 0 = some 0x81234567 := by decide
theorem test_shr_zero_fill : yOf (.shr 31) 0x80000000 0 0 = some 0x00000001 := by decide
theorem test_shr_sixteen : yOf (.shr 16) 0x12345678 0 0 = some 0x00001234 := by decide
theorem test_and : yOf .and 0xF0F0F0F0 0xFF00FF00 0 = some 0xF000F000 := by decide
theorem test_or : yOf .or 0xF0F0F0F0 0xFF00FF00 0 = some 0xFFF0FFF0 := by decide
theorem test_xor : yOf .xor 0xF0F0F0F0 0xFF00FF00 0 = some 0x0FF00FF0 := by decide
theorem test_not : yOf .not 0x12345678 0 0 = some 0xEDCBA987 := by decide
theorem test_add_wraps : yOf .add 0xFFFFFFFF 0x00000001 0 = some 0x00000000 := by decide
theorem test_add_words : yOf .add 0x6A09E667 0x510E527F 0 = some 0xBB1838E6 := by decide
theorem test_ssig0 : yOf .ssig0 0x12345678 0 0 = some 0xE7FCE6EE := by decide
theorem test_ssig1 : yOf .ssig1 0x12345678 0 0 = some 0xA1F78649 := by decide
theorem test_bsig0 : yOf .bsig0 0x12345678 0 0 = some 0x66146474 := by decide
theorem test_bsig1 : yOf .bsig1 0x12345678 0 0 = some 0x3561ABDA := by decide
theorem test_ch : yOf .ch 0xFF00FF00 0x12345678 0x9ABCDEF0 = some 0x12BC56F0 := by decide
theorem test_maj : yOf .maj 0xFF00FF00 0x0F0F0F0F 0x00FFFF00 = some 0x0F0FFF00 := by decide
/-- V-ALU-7: FINISHED with ERR = 1; Y is written, the status stays 00000026. -/
theorem test_add_in_error :
    (nextOf (performCommand ⟨0x46000000, 0x12345678, 0x11111111, 0⟩ (finished.withError true .sequence))).map
      (fun s => (s.y, s.status)) = some (0x23456789, 0x00000026) := by decide

/-! ## NOP, INIT, PUSH, FINAL -/

/-- 44 R221. -/
theorem test_nop : exec .nop finished = .next finished := rfl
/-- 95 V-ERR-12: INIT leaves the error state; Y is unchanged. -/
theorem test_init_clears_error :
    (nextOf (performCommand (cmdA 0x10000000 0) ((finished.withError true .sequence).withY 0x23456789))).map
      (fun s => (s.status, s.h, s.l, s.bc, s.y)) = some (0x00000000, iv, 0, 0, 0x23456789) := by decide
/-- 95 P1 line 2: BUF[0..2] = 61 62 63, BC = 3, L = 24, H = IV. -/
theorem test_push_abc :
    (nextOf (performCommand (cmdA 0x20000002 0x61626300) ready)).map
      (fun s => (s.buffered, s.bc, s.l, s.h)) = some ([0x61, 0x62, 0x63], 3, 24, iv) := by decide
/-- 95 P6 line 17: byte 62 fills the block, 63 64 65 start the next one. -/
theorem test_push_straddles :
    (nextOf (performCommand (cmdA 0x20000003 0x62636465) (message 504 63))).map
      (fun s => (s.buffered, s.bc, s.l, s.h)) =
    some ([0x63, 0x64, 0x65], 3, 536, #v[0x77c8c95c, 0x8e20063d, 0x725c39ca, 0x53ba98e7, 0x012e78d6, 0xb576bd7f,
      0x67eaa2fc, 0x7998ae63]) := by decide +kernel
/-- 95 V-KAT-1 (as 90 C1 corrects it), P2 line 1: FINAL from reset, through withFetchWord and one step. -/
theorem test_final_empty :
    (nextOf (step (State.reset.withFetchWord 32 0x30000000))).map (fun s => (s.digest, s.status)) =
    some (0xe3b0c44298fc1c149afbf4c8996fb92427ae41e4649b934ca495991b7852b855, 0x00000002) := by decide +kernel
/-- 95 V-ENG-2, V-TAIL-4: with BC = 56, FINAL processes two blocks; L stays 448. -/
theorem test_final_two_blocks :
    (nextOf (performCommand (cmdA 0x30000000 0) (message 448 56))).map
      (fun s => (s.digest, s.status, s.l, s.bc, s.fresh)) =
    some (0xb35439a4ac6f0948b6d6f9e3c6af0f5f590ce20f1bde7090ef7970686ec6738a, 0x00000002, 448, 0, 2) := by
  decide +kernel

/-! ## Errors (95 V-ERR) -/

/-- V-ENC-2, V-ERR-1. -/
theorem test_illegal : statusAfter (cmdA 0x50000000 0) ready = some 0x00000014 := by decide
/-- V-ERR-2, V-ERR-3, V-ERR-11. -/
theorem test_sequence : statusAfter (cmdA 0x20000000 0x61000000) finished = some 0x00000026 ∧
    statusAfter (cmdA 0x30000000 0) finished = some 0x00000026 ∧
    statusAfter (cmdA 0x47000000 0) finished = some 0x00000016 := by decide
/-- V-ERR-4: the first error is kept. -/
theorem test_first_error_kept :
    statusAfter (cmdA 0x50000000 0) (finished.withError true .sequence) = some 0x00000026 := by decide
/-- V-ERR-5, V-ERR-6: PUSH and FINAL do nothing while ERR = 1. -/
theorem test_gated : (nextOf (performCommand (cmdA 0x20000003 0x64656667) inError)) = some inError ∧
    (nextOf (performCommand (cmdA 0x30000000 0) inError)) = some inError := by decide
/-- V-ERR-7, V-ERR-9, V-ERR-10: the length error, and MODE before it. -/
theorem test_length :
    statusAfter (cmdA 0x20000000 0) (message 0xFFFFFFFFFFFFFFF8 63) = some 0x00000034 ∧
    statusAfter (cmdA 0x20000001 0) (message 0xFFFFFFFFFFFFFFF0 62) = some 0x00000034 ∧
    statusAfter (cmdA 0x20000000 0) ((message 0xFFFFFFFFFFFFFFF8 0).withMode .finished) = some 0x00000026 := by decide
/-- V-ERR-8. -/
theorem test_length_fits :
    (nextOf (performCommand (cmdA 0x20000000 0) (message 0xFFFFFFFFFFFFFFF0 62))).map (fun s => (s.l, s.err)) =
    some (0xFFFFFFFFFFFFFFF8, false) := by decide +kernel

/-! ## Padding, schedule, rounds, rendering -/

/-- 95 V-PAD-1 to V-PAD-10: L and the padded length. -/
theorem test_pad_lengths :
    [(0, 512), (439, 512), (440, 512), (446, 512), (447, 1024), (448, 1024), (511, 1024), (512, 1024), (959, 1536),
      (960, 1536)].all (fun p => (pad (List.replicate p.1 false)).length == p.2) = true := by decide +kernel
/-- 95 V-TAIL-2. -/
theorem test_tail_abc : tail [0x61, 0x62, 0x63] 24 =
    [0x61, 0x62, 0x63, 0x80] ++ List.replicate 52 0 ++ [0, 0, 0, 0, 0, 0, 0, 0x18] := by decide +kernel
/-- 95 V-TAIL-3, V-TAIL-4: 64 bytes at BC = 55, 128 at BC = 56. -/
theorem test_tail_sizes : (tail (List.replicate 55 0x61) 440).length = 64 ∧
    (tail (List.replicate 56 0x61) 448).length = 128 := by decide +kernel
/-- 95 V-SCH-1 (42 R173): W[16..19] and W[63] of the "abc" block. -/
theorem test_expand_abc :
    let w := expand (blockWords (blockAt (tail [0x61, 0x62, 0x63] 24) 0))
    (w.drop 16).take 4 = [0x61626380, 0x000f0000, 0x7da86405, 0x600003c6] ∧ w.getD 63 0 = 0x12b1edeb := by
  decide +kernel
/-- 95 V-CMP-1, row 0 (43 R197). -/
theorem test_round_zero : roundUpdate (Working.ofHash iv) kRom[0] 0x61626380 =
    ⟨0x5d6aebcd, 0x6a09e667, 0xbb67ae85, 0x3c6ef372, 0xfa2a4622, 0x510e527f, 0x9b05688c, 0x1f83d9ab⟩ := by decide +kernel
/-- 44 R226: lowercase, high nibble first. -/
theorem test_render : (renderDigest (0xe3b0 <<< 240)).take 6 = ['e', '3', 'b', '0', '0', '0'] := by decide

/-! ## Assembler (30 R80, R81; 95 V-ENC-3) -/

theorem test_rotl_expands :
    (parseLine "rotl 0x12345678, 4 ; comment".toList).map (fun ls => ls.flatMap (AsmLine.commands ascii)) =
    some [cmdA 0x4000001C 0x12345678] := by decide
theorem test_pushstr_expands : AsmLine.commands ascii (.pushStr ['a', 'b', 'c', 'd', 'e']) =
    [cmdA 0x20000003 0x61626364, cmdA 0x20000000 0x65000000] := by decide

/-! ## Handshake and reset -/

/-- 70 R281, 95's "Reset state": status reads 1 in reset and 0 once ready. -/
theorem test_reset_status : State.reset.status = 0x00000001 ∧ ready.status = 0x00000000 := by decide
/-- 44 R228: with `cmd_ready = 0` nothing is accepted. -/
theorem test_not_ready : (nextOf (step ((ready.withHs (.running (cmdA 0 0) 1)).withHost [offer 0x50000000 0]))).map
    (fun s => s.hs) = some (.running (cmdA 0 0) 0) := by decide
/-- 70 R280: reset abandons a pending command. -/
theorem test_reset_abandons :
    (nextOf (step ((finished.withHs (.running (cmdA 0x50000000 0) 0)).withHost [resetIn]))).map
      (fun s => (s.status, s.pending?)) = some (0x00000001, none) := by decide

/-! ## Witnesses: states and operands that meet the hypotheses of the statements -/

theorem witness_decodeOfEncode : (Instr.push 4).wf = true ∧ (Instr.rotr 31).wf = true ∧ Instr.maj.wf = true := by
  decide
theorem witness_encodeOfDecode : decode 0x4100001F = .instr (.shr 31) := by decide
theorem witness_opcodeTable : decode 0x20000003 = .instr (.push 4) ∧ decode 0x4000001F = .instr (.rotr 31) ∧
    (∃ why, decode 0x41000020 = .illegal why) := ⟨by decide, by decide, .reservedBits, by decide⟩
/-- Every class of 30 R78 has a word at its boundary, and the legal neighbour of each is legal. -/
theorem witness_illegalWords :
    decode 0x50000000 = .illegal .reservedOpc ∧ decode 0x08000000 = .illegal .reservedBits ∧
    decode 0x20000004 = .illegal .reservedBits ∧ decode 0x40800000 = .illegal .reservedBits ∧
    decode 0x4E000000 = .illegal .reservedFn ∧ decode 0x4D000001 = .illegal .shiftNotAllowed ∧
    decode 0x4D000000 = .instr .maj := by decide
theorem witness_raise : ready.err = false ∧ inError.err = true := by decide
theorem witness_raisingCommand : ready.err = false ∧
    (nextOf (performCommand (cmdA 0x41000020 0) ready)).map State.err = some true ∧
    decode (cmdA 0x41000020 0).cmd = .illegal .reservedBits := by decide
/-- The length is passed and MODE = FINISHED; the length alone is passed, by one byte. -/
theorem witness_checksInPriorityOrder :
    decode (cmdA 0x20000000 0).cmd = .instr (.push 1) ∧
    ((message 0xFFFFFFFFFFFFFFF8 0).withMode .finished).mode = .finished ∧
    ((message 0xFFFFFFFFFFFFFFF8 0).withMode .finished).err = false ∧
    (message 0xFFFFFFFFFFFFFFF8 63).mode = .active ∧ 2 ^ 64 - 1 < (message 0xFFFFFFFFFFFFFFF8 63).l.toNat + 8 * 1 := by decide
/-- An INIT that completes at its last edge, and one offered to a ready core; an error that a NOP does not clear. -/
theorem witness_errorClearing :
    (cmdA 0x10000000 0).isInit = true ∧ (inError.withHost [offer 0x10000000 0]).portIn.cmdValid = true ∧
    step (inError.withHs (.running (cmdA 0x00000000 0) 0)) = .next inError ∧ inError.err = true :=
  ⟨by decide, by decide, rfl, by decide⟩
theorem witness_errorCleared : ∃ t, exec .init inError = .next t ∧ inError.err = true ∧ t.err = false :=
  ⟨_, rfl, by decide, by decide⟩
theorem witness_errorGates : inError.err = true ∧ inError.done = false ∧ step inError = .next inError :=
  ⟨by decide, by decide, rfl⟩
theorem witness_nop : (0x08000000 : Word).toNat / 2 ^ 28 = 0 ∧ (0x08000000 : Word) ≠ 0 := by decide
theorem witness_pushAbsorbsNothing :
    (1 ≤ 4 ∧ inError.err = true) ∧ (finished.err = false ∧ finished.mode = .finished) ∧
    ((message 0xFFFFFFFFFFFFFFF0 62).err = false ∧ (message 0xFFFFFFFFFFFFFFF0 62).mode = .active ∧
      2 ^ 64 - 1 < (message 0xFFFFFFFFFFFFFFF0 62).l.toNat + 8 * 2) := by decide
/-- The last bytes that stay inside the block, at the longest message too. -/
theorem witness_pushInside :
    ((message 472 59).err = false ∧ (message 472 59).mode = .active ∧
      (message 472 59).l.toNat + 8 * 4 ≤ 2 ^ 64 - 1 ∧ (message 472 59).bc.toNat + 4 < 64) ∧
    ((message 0xFFFFFFFFFFFFFFF0 62).l.toNat + 8 * 1 ≤ 2 ^ 64 - 1 ∧ (message 0xFFFFFFFFFFFFFFF0 62).bc.toNat + 1 < 64) := by
  decide
/-- The first fill that fills the block exactly, and the fullest buffer. -/
theorem witness_pushFilling :
    ((message 480 60).err = false ∧ (message 480 60).mode = .active ∧
      (message 480 60).l.toNat + 8 * 4 ≤ 2 ^ 64 - 1 ∧ 64 ≤ (message 480 60).bc.toNat + 4) ∧
    64 ≤ (message 504 63).bc.toNat + 1 := by decide
theorem witness_finalFinishesNothing : inError.err = true ∧ finished.err = false ∧ finished.mode = .finished := by
  decide
theorem witness_finalFinishes :
    ((message 440 55).err = false ∧ (message 440 55).mode = .active ∧ (message 440 55).bc.toNat ≤ 55) ∧
    ((message 448 56).err = false ∧ (message 448 56).mode = .active ∧ ¬ (message 448 56).bc.toNat ≤ 55) := by decide
theorem witness_pushByteLanes :
    (0x61FFFFFF : Word).toNat / 2 ^ (32 - 8 * 1) = (0x61000000 : Word).toNat / 2 ^ (32 - 8 * 1) ∧
    (operands 0x61FFFFFF 0 0).opA = 0x61FFFFFF ∧ (operands 0x61000000 0 0).opA = 0x61000000 ∧
    operands 0x61000000 0 0 = { operands 0x61FFFFFF 0 0 with hs := (operands 0x61000000 0 0).hs } :=
  ⟨by decide, by decide, by decide, rfl⟩
theorem witness_alu : (Instr.rotr 31).isAlu = true ∧ Instr.maj.isAlu = true ∧ Instr.init.isAlu = false := by decide
theorem witness_rotateAndShift : 0 ≤ 31 ∧ decode (0x40000000 ||| BitVec.ofNat 32 31) = .instr (.rotr 31) := by decide
/-- M = 447 and M = 448, the two sides of the boundary. -/
theorem witness_padLength : (List.replicate 446 false).length < 2 ^ 64 ∧ (446 + 1) % 512 = 447 ∧
    (List.replicate 447 false).length < 2 ^ 64 ∧ (447 + 1) % 512 = 448 := by decide +kernel
theorem witness_byteMessageBlockCount :
    (List.replicate 55 (0x61 : Byte)).length % 64 ≤ 55 ∧ 56 ≤ (List.replicate 120 (0x61 : Byte)).length % 64 := by
  decide +kernel
theorem witness_tailAgreesWithPad : 8 * (List.replicate 119 (0x61 : Byte)).length < 2 ^ 64 := by
  simp only [List.length_replicate]; decide
theorem witness_messageStart : ready.messageStart := by unfold State.messageStart; decide
/-- PUSH 3, ADD, NOP, then FINAL. -/
theorem witness_hashEndToEnd :
    (decode (cmdA 0x20000002 0x61626300).cmd = .instr (.push 3) ∧ decode (cmdA 0x46000000 0).cmd = .instr .add ∧
      decode (cmdA 0x00000000 0).cmd = .instr .nop ∧ decode (cmdA 0x30000000 0).cmd = .instr .final) ∧
    pushedBytes [cmdA 0x20000002 0x61626300, cmdA 0x46000000 0, cmdA 0x00000000 0] = [0x61, 0x62, 0x63] ∧
    8 * (pushedBytes [cmdA 0x20000002 0x61626300, cmdA 0x46000000 0, cmdA 0x00000000 0]).length ≤ 2 ^ 64 - 1 := by
  decide
theorem witness_finishedDigestStays : finished.mode = .finished ∧
    ∀ c ∈ [cmdA 0x20000000 0, cmdA 0x30000000 0, cmdA 0x46000000 1, cmdA 0x50000000 0], c.isInit = false := by decide
/-- "abcd" as one PUSH and as four. -/
theorem witness_splitIndependence :
    pushedBytes [cmdA 0x20000003 0x61626364] = pushedBytes [cmdA 0x20000000 0x61000000, cmdA 0x20000002 0x62636400] ∧
    (∀ c ∈ [cmdA 0x20000003 0x61626364, cmdA 0x20000000 0x61000000, cmdA 0x20000002 0x62636400], c.isPush = true) ∧
    (message 504 63).err = false ∧ (message 504 63).mode = .active ∧ (message 504 63).hs = .idle ∧
    (message 504 63).l.toNat + 8 * (pushedBytes [cmdA 0x20000003 0x61626364]).length ≤ 2 ^ 64 - 1 := by decide
/-- Two states that differ in a stale byte of BUF and in Y. -/
theorem witness_staleState : (message 472 59).sameMessage
      (((message 472 59).withBuf ((Vector.replicate 64 0x61).set 63 0xFF)).withY 1) ∧
    (message 472 59).opA = (((message 472 59).withBuf ((Vector.replicate 64 0x61).set 63 0xFF)).withY 1).opA := by
  unfold State.sameMessage; decide +kernel
theorem witness_initForgets : (cmdA 0x10000000 7).isInit = true := by decide
theorem witness_digestLayout : (7 < 8 ∧ 3 < 4) ∧ digestByte ready.digest 31 = 0x19 ∧ digestByte ready.digest 0 = 0x6a := by
  decide
theorem witness_stepRunsTheDecodedCommand :
    (operands 1 2 3).hs = .running ⟨0x00000000, 1, 2, 3⟩ 0 ∧ (operands 1 2 3).portIn.rst = false ∧
    decode 0x00000000 = .instr .nop ∧ exec .nop (operands 1 2 3).advanceHost = .next (operands 1 2 3).advanceHost :=
  ⟨by decide, by decide, by decide, rfl⟩
theorem witness_stepRunsAnIllegalWord :
    (ready.withHs (.running (cmdA 0x50000000 0) 0)).hs = .running (cmdA 0x50000000 0) 0 ∧
    decode (cmdA 0x50000000 0).cmd = .illegal .reservedOpc := by decide
theorem witness_readyCoreAccepts : (ready.withHost [offer 0x46000000 1]).cmdReady = true ∧
    (ready.withHost [offer 0x46000000 1]).portIn.rst = false ∧
    (ready.withHost [offer 0x46000000 1]).portIn.cmdValid = true := by decide
/-- A core that is not ready, whatever is offered; a ready core in reset; a ready core that is offered nothing. -/
theorem witness_portsIgnored :
    ((offer 0x50000000 1).rst = (offer 0x10000000 2).rst ∧ State.reset.cmdReady = false) ∧
    (resetIn.rst = (⟨true, true, 0x10000000, 1, 2, 3⟩ : PortIn).rst ∧ resetIn.rst = true ∧ ready.cmdReady = true) ∧
    (PortIn.quiet.rst = (⟨false, false, 7, 7, 7, 7⟩ : PortIn).rst ∧ ready.cmdReady = true ∧
      PortIn.quiet.cmdValid = false ∧ (⟨false, false, 7, 7, 7, 7⟩ : PortIn).cmdValid = false) := by decide
theorem witness_acceptedCommandCompletes :
    (ready.withHs (.running (cmdA 0x30000000 0) 2)).hs = .running (cmdA 0x30000000 0) 2 ∧
    (ready.withHs (.running (cmdA 0x30000000 0) 2)).noReset 3 := by unfold State.noReset; decide
theorem witness_resetEdge : (finished.withHost [resetIn]).portIn.rst = true := by decide
theorem witness_releaseFromReset : State.reset.messageStart ∧ State.reset.y = 0 ∧ State.reset.hs = .inReset ∧
    ∀ p ∈ State.reset.host, p.rst = false := by unfold State.messageStart; decide
/-- A quiet edge of a ready core, an accepting edge, an edge in reset, and an edge before the last one of a pending
command. -/
theorem witness_registersChangeOnlyAtCompletion :
    (ready.portIn.rst = false ∧ ready.portIn.cmdValid = false ∧ ∀ c, ready.hs ≠ .running c 0) ∧
    ((ready.withHost [offer 0x30000000 0]).portIn.rst = false ∧
      (ready.withHost [offer 0x30000000 0]).portIn.cmdValid = true ∧
      ∀ c, (ready.withHost [offer 0x30000000 0]).hs ≠ .running c 0) ∧
    (State.reset.portIn.rst = false ∧ (∀ c, State.reset.hs ≠ .running c 0) ∧ State.reset.hs ≠ .idle) ∧
    (∀ c, (ready.withHs (.running (cmdA 0x30000000 0) 1)).hs ≠ .running c 0) := by
  simp [ready, offer, State.portIn, State.reset, PortIn.quiet]
/-- The invariant holds of the reset state and a step is taken from a state it holds of. -/
theorem witness_stepKeepsTheInvariant : ready.Inv ∧ step ready = .next ready :=
  ⟨⟨by decide, by decide, by decide, by decide, by decide⟩, rfl⟩

end Sys2Proof.Tests
end

section
/-! PROOF. The engine computes the block function (43 R194, R196): the schedule steps leave Expand's words in W whatever
W held before, and the rounds fold K and W into a..h. -/

namespace Sys2Proof.Machine

/-! ## Arrays as lists -/

/-- Writing place i of an array appends to its first i entries. -/
theorem take_succ_toList_set {α : Type} {n : Nat} (v : Vector α n) (i : Nat) (x : α) (h : i < n) :
    (v.set i x h).toList.take (i + 1) = v.toList.take i ++ [x] := by
  have hi : i < (v.set i x h).toList.length := by simpa using h
  rw [List.take_succ_eq_append_getElem hi]
  simp [Vector.toList_set, List.take_set_of_le]

/-! ## The schedule -/

/-- The first k schedule words, the newest first: the form in which `expandMore` keeps them. -/
def newestFirst (w : Schedule) (k : Nat) : List Word := (w.toList.take k).reverse

theorem newestFirst_64 (w : Schedule) : newestFirst w 64 = w.toList.reverse := by
  rw [newestFirst, List.take_of_length_le (by simp)]

theorem newestFirst_setWord (w : Schedule) (i : BitVec 6) (v : Word) :
    newestFirst (setWord w i v) (i.toNat + 1) = v :: newestFirst w i.toNat := by
  simp [newestFirst, setWord, take_succ_toList_set]

/-- The word j places before t. -/
theorem newestFirst_getD (w : Schedule) (t j : BitVec 6) (hj : j ≤ t) (h0 : 0 < j.toNat) :
    (newestFirst w t.toNat).getD (j.toNat - 1) 0 = wordAt w (t - j) := by
  have hle : j.toNat ≤ t.toNat := hj
  have ht := t.isLt
  have hsub : (t - j).toNat = t.toNat - (j.toNat - 1) - 1 := by
    rw [BitVec.toNat_sub_of_le hj]; omega
  rw [List.getD_eq_getElem _ _ (by simp [newestFirst]; omega)]
  simp only [newestFirst, List.getElem_reverse, List.getElem_take, wordAt, Vector.getElem_toList]
  congr 1
  simp; omega

/-- W[t] is `expandMore`'s next word of the words before it (42 R170). -/
theorem nextWord_eq (w : Schedule) (t : BitVec 6) (ht : 16 ≤ t) :
    nextWord w t =
      addMod [ssig0 ((newestFirst w t.toNat).getD 14 0), (newestFirst w t.toNat).getD 6 0,
        ssig1 ((newestFirst w t.toNat).getD 1 0), (newestFirst w t.toNat).getD 15 0] := by
  have back (j : BitVec 6) (hj : j ≤ 16) (h0 : 0 < j.toNat) := newestFirst_getD w t j (BitVec.le_trans hj ht) h0
  rw [nextWord, ← back 15 (by decide) (by decide), ← back 7 (by decide) (by decide),
    ← back 2 (by decide) (by decide), ← back 16 (by decide) (by decide)]
  rfl

theorem newestFirst_expandStep (s : State) (ht : 16 ≤ s.t) :
    newestFirst s.expandStep.w (s.t.toNat + 1) =
      addMod [ssig0 ((newestFirst s.w s.t.toNat).getD 14 0), (newestFirst s.w s.t.toNat).getD 6 0,
        ssig1 ((newestFirst s.w s.t.toNat).getD 1 0), (newestFirst s.w s.t.toNat).getD 15 0] ::
      newestFirst s.w s.t.toNat := by
  simp only [State.expandStep, State.withIndex_w, State.withSchedule_w, newestFirst_setWord, nextWord_eq s.w s.t ht]

/-- The engine's schedule steps and `expandMore` go on alike from any t (42 R170, 43 R196). -/
theorem newestFirst_expandSteps (n : Nat) (s : State) (ht : 16 ≤ s.t.toNat) (hn : s.t.toNat + n ≤ 64) :
    newestFirst (State.expandSteps n s).w (s.t.toNat + n) = expandMore n (newestFirst s.w s.t.toNat) := by
  induction n generalizing s with
  | zero => rfl
  | succ n ih =>
    rw [State.expandSteps, expandMore, ← newestFirst_expandStep s ht]
    cases n with
    | zero => rfl
    | succ n =>
      have hstep : s.expandStep.t.toNat = s.t.toNat + 1 := by
        simp only [State.expandStep, State.withIndex_t, BitVec.toNat_add, BitVec.reduceToNat]; omega
      rw [← hstep, ← ih s.expandStep (by omega) (by omega)]
      congr 1; omega

theorem newestFirst_loadWords (m : Vector Word 16) (w : Schedule) :
    newestFirst (loadWords m w) 16 = m.toList.reverse := by
  simp only [newestFirst, List.reverse_inj]
  apply List.ext_getElem (by simp)
  intro i h1 h2
  have hi : i < 16 := by simpa using h2
  simp [loadWords, hi]

/-- After the schedule steps W holds Expand's words, whatever it held before (42 R170, R172). -/
theorem expandSteps_beginExpand_w (b : Block) (s : State) :
    (State.expandSteps 48 (s.beginExpand b)).w.toList = expand (blockWords b) := by
  have h := newestFirst_expandSteps 48 (s.beginExpand b) (le_refl 16) (le_refl 64)
  have hw : newestFirst (s.beginExpand b).w 16 = (blockWords b).toList.reverse := newestFirst_loadWords _ s.w
  have ht : (s.beginExpand b).t.toNat = 16 := rfl
  rw [ht, hw, newestFirst_64] at h
  rw [expand, ← h, List.reverse_reverse]

/-! ## The rounds -/

/-- The rounds from t on use `K[t]`, `W[t]` and the words after them in order (43 R193). -/
theorem roundSteps_work (n : Nat) (s : State) (hn : s.t.toNat + n ≤ 64) :
    (State.roundSteps n s).work =
      (((kRom.toList.zip s.w.toList).drop s.t.toNat).take n).foldl (fun v kw => roundUpdate v kw.1 kw.2) s.work := by
  induction n generalizing s with
  | zero => rfl
  | succ n ih =>
    have hlt : s.t.toNat < (kRom.toList.zip s.w.toList).length := by simp; omega
    rw [State.roundSteps, List.drop_eq_getElem_cons hlt, List.take_succ_cons, List.foldl_cons, List.getElem_zip]
    cases n with
    | zero => rfl
    | succ n =>
      have hstep : s.roundStep.t.toNat = s.t.toNat + 1 := by
        simp only [State.roundStep, State.withIndex_t, BitVec.toNat_add, BitVec.reduceToNat]; omega
      rw [ih s.roundStep (by omega), hstep]
      rfl

theorem roundSteps_beginRounds_work (s : State) :
    (State.roundSteps 64 s.beginRounds).work = rounds (Working.ofHash s.h) s.w.toList := by
  have ht : s.beginRounds.t.toNat = 0 := rfl
  have hw : s.beginRounds.w = s.w := rfl
  rw [roundSteps_work 64 s.beginRounds (le_refl 64), ht, hw, List.drop_zero, List.take_of_length_le (by simp)]
  rfl

/-- `H <- ProcessBlock(H, B)`: the engine's H is the block function of H and the block, and of nothing else it held
(43 R192, R194, R195). -/
@[simp] theorem processBlock_h (b : Block) (s : State) : (s.processBlock b).h = blockFunction s.h b := by
  have hh (n : Nat) : (State.expandSteps n (s.beginExpand b)).h = s.h := by simp [State.beginExpand]
  rw [State.processBlock, blockSequence_h, roundSteps_beginRounds_work, hh, expandSteps_beginExpand_w, blockFunction,
    compress]

end Sys2Proof.Machine
end

section
/-! PROOF. The commands by kind, and what each kind's next state is: every claim about all commands goes through
`instr_kind_cases` and these equations. -/

namespace Sys2Proof.Machine

/-! ## The commands by kind -/

/-- The five kinds of commands: the ALU commands are one kind, since each only writes Y (40 R114). -/
theorem instr_kind_cases (i : Instr) :
    i = .nop ∨ i = .init ∨ (∃ n, i = .push n) ∨ i = .final ∨ i.isAlu = true := by
  cases i <;> simp [Instr.isAlu]

@[simp] theorem exec_nop (s : State) : exec .nop s = .next s := (rfl)
@[simp] theorem exec_init (s : State) : exec .init s = .next s.startMessage := (rfl)
@[simp] theorem exec_push (n : Nat) (s : State) : exec (.push n) s = execPush n s := (rfl)
@[simp] theorem exec_final (s : State) : exec .final s = execFinal s := (rfl)

/-- The function of A, B and C that an ALU command computes; 0 for the other commands, which compute none
(40 R115 to R127). -/
def aluFunction : Instr → Word → Word → Word → Word
  | .rotr sh, a, _, _ => rotr a sh
  | .shr sh, a, _, _ => shr a sh
  | .and, a, b, _ => andW a b
  | .or, a, b, _ => orW a b
  | .xor, a, b, _ => xorW a b
  | .not, a, _, _ => notW a
  | .add, a, b, _ => addMod [a, b]
  | .ssig0, a, _, _ => ssig0 a
  | .ssig1, a, _, _ => ssig1 a
  | .bsig0, a, _, _ => bsig0 a
  | .bsig1, a, _, _ => bsig1 a
  | .ch, a, b, c => chW a b c
  | .maj, a, b, c => majW a b c
  | .nop, _, _, _ | .init, _, _, _ | .push _, _, _, _ | .final, _, _, _ => 0

/-- An ALU command writes Y with its function of the operands, and nothing else (40 R114). -/
theorem exec_alu {i : Instr} (h : i.isAlu = true) (s : State) :
    exec i s = .next (s.withY (aluFunction i s.opA s.opB s.opC)) := by
  cases i with
  | nop | init | push _ | final => cases h
  | rotr _ | shr _ | and | or | xor | not | add | ssig0 | ssig1 | bsig0 | bsig1 | ch | maj => rfl

/-! ## What INIT leaves in each register -/

section
variable (s : State)

@[simp] theorem startMessage_h : s.startMessage.h = iv := (rfl)
@[simp] theorem startMessage_l : s.startMessage.l = 0 := (rfl)
@[simp] theorem startMessage_buf : s.startMessage.buf = s.buf := (rfl)
@[simp] theorem startMessage_bc : s.startMessage.bc = 0 := (rfl)
@[simp] theorem startMessage_mode : s.startMessage.mode = .active := (rfl)
@[simp] theorem startMessage_err : s.startMessage.err = false := (rfl)
@[simp] theorem startMessage_errcode : s.startMessage.errcode = .noError := (rfl)
@[simp] theorem startMessage_y : s.startMessage.y = s.y := (rfl)
@[simp] theorem startMessage_hs : s.startMessage.hs = s.hs := (rfl)
@[simp] theorem startMessage_w : s.startMessage.w = s.w := (rfl)
@[simp] theorem startMessage_work : s.startMessage.work = s.work := (rfl)
@[simp] theorem startMessage_t : s.startMessage.t = s.t := (rfl)
@[simp] theorem startMessage_phase : s.startMessage.phase = s.phase := (rfl)
@[simp] theorem startMessage_host : s.startMessage.host = s.host := (rfl)

end

/-! ## What PUSH and FINAL always leave alone -/

/-- PUSH completes and keeps MODE, Y, the handshake and the host's inputs (41 R150). -/
theorem execPush_next (n : Nat) (s : State) :
    ∃ t, execPush n s = .next t ∧ t.mode = s.mode ∧ t.y = s.y ∧ t.hs = s.hs ∧ t.host = s.host := by
  obtain ⟨-, h⟩ | ⟨-, -, h⟩ | ⟨-, -, -, h⟩ | ⟨-, -, -, h⟩ := execPush_cases n s
  all_goals exact ⟨_, h, by simp⟩

/-- FINAL completes and keeps L, BUF, Y, the handshake and the host's inputs (41 R151). -/
theorem execFinal_next (s : State) :
    ∃ t, execFinal s = .next t ∧ t.l = s.l ∧ t.buf = s.buf ∧ t.y = s.y ∧ t.hs = s.hs ∧ t.host = s.host := by
  obtain ⟨-, h⟩ | ⟨-, -, h⟩ | ⟨-, -, h⟩ := execFinal_cases s
  all_goals exact ⟨_, h, by simp⟩

/-- Every command completes from every state (44 R231). -/
theorem exec_next (i : Instr) (s : State) : ∃ t, exec i s = .next t := by
  obtain rfl | rfl | ⟨n, rfl⟩ | rfl | h := instr_kind_cases i
  · exact ⟨_, exec_nop s⟩
  · exact ⟨_, exec_init s⟩
  · obtain ⟨t, h, -⟩ := execPush_next n s
    exact ⟨t, h⟩
  · obtain ⟨t, h, -⟩ := execFinal_next s
    exact ⟨t, h⟩
  · exact ⟨_, exec_alu h s⟩

/-- An accepted command of any word completes and leaves the core ready (44 R229, R231, 60 R251). -/
theorem completeCommand_next (c : Command) (s : State) :
    ∃ t : State, completeCommand c s = .next (t.withHs .idle) := by
  unfold completeCommand
  cases hd : decode c.cmd with
  | illegal why => exact ⟨_, by rw [dispatch_illegal s hd, clearPending_next]⟩
  | instr i =>
    obtain ⟨t, h⟩ := exec_next i s
    exact ⟨t, by rw [dispatch_instr s hd, h, clearPending_next]⟩

/-- Settles O49: the writers of each register, read off each kind's next state. -/
theorem writersOfEachRegister : Obligations.WritersOfEachRegister := by
  unfold Obligations.WritersOfEachRegister
  intro i s
  obtain rfl | rfl | ⟨n, rfl⟩ | rfl | hAlu := instr_kind_cases i
  · exact ⟨_, exec_nop s, by simp⟩
  · exact ⟨_, exec_init s, by simp⟩
  · obtain ⟨t, h, hmode, hy, hhs, hhost⟩ := execPush_next n s
    exact ⟨t, h, by simp [hmode, hy, hhs, hhost]⟩
  · obtain ⟨t, h, hl, hbuf, hy, hhs, hhost⟩ := execFinal_next s
    exact ⟨t, h, by simp [hl, hbuf, hy, hhs, hhost]⟩
  · exact ⟨_, exec_alu hAlu s, by simp [hAlu]⟩

end Sys2Proof.Machine
end

section
/-! PROOF. Stale state is unobservable: a command's effect on what feeds the hash and the status is a function of what
feeds them (10 R24, R30 to R32, 43 R195, 44 R234). -/

namespace Sys2Proof.Machine

/-! ## The meaningful bytes of BUF -/

theorem buffered_of_bc_zero {s : State} (h : s.bc = 0) : s.buffered = [] := by
  simp [State.buffered, h]

theorem take_succ_setByte (s : State) (b : Byte) :
    (setByte s.buf s.bc b).toList.take (s.bc.toNat + 1) = s.buffered ++ [b] :=
  take_succ_toList_set s.buf s.bc.toNat b s.bc.isLt

/-- A byte that does not fill the block joins the meaningful bytes. -/
theorem buffered_absorbByte_inside {s : State} (b : Byte) (h : s.bc.toNat + 1 ≠ 64) :
    (s.absorbByte b).buffered = s.buffered ++ [b] := by
  have hbc : (s.bc + 1).toNat = s.bc.toNat + 1 := by
    simp only [BitVec.toNat_add, BitVec.reduceToNat]; omega
  rw [absorbByte_inside b h, ← take_succ_setByte, ← hbc]
  rfl

theorem buffered_absorbByte_full {s : State} (b : Byte) (h : s.bc.toNat + 1 = 64) :
    (s.absorbByte b).buffered = [] := by
  apply buffered_of_bc_zero
  rw [absorbByte_full b h, State.withBc_bc]

/-- The full block is made of the meaningful bytes and the byte that fills it, no stale one among them (10 R24). -/
theorem toList_setByte_full {s : State} (b : Byte) (h : s.bc.toNat + 1 = 64) :
    (setByte s.buf s.bc b).toList = s.buffered ++ [b] := by
  rw [← take_succ_setByte, h, List.take_of_length_le (by simp)]

/-! ## H after a byte and after FINAL -/

theorem absorbByte_h_inside {s : State} (b : Byte) (h : s.bc.toNat + 1 ≠ 64) : (s.absorbByte b).h = s.h := by
  rw [absorbByte_inside b h]

theorem absorbByte_h_full {s : State} (b : Byte) (h : s.bc.toNat + 1 = 64) :
    (s.absorbByte b).h = blockFunction s.h (setByte s.buf s.bc b) := by
  rw [absorbByte_full b h, State.withBc_h, processBlock_h]

/-- H after FINAL (41 R143, R151). -/
theorem finish_h (s : State) :
    s.finish.h =
      if s.bc.toNat ≤ 55 then blockFunction s.h (blockAt (tail s.buffered s.l) 0)
      else blockFunction (blockFunction s.h (blockAt (tail s.buffered s.l) 0)) (blockAt (tail s.buffered s.l) 64) := by
  rw [finish_eq]
  split <;> simp

/-! ## Each effect keeps two states at the same point of a message -/

section
variable {s t : State}

theorem sameMessage_withY (h : s.sameMessage t) (v w : Word) : (s.withY v).sameMessage (t.withY w) := h

theorem sameMessage_withError (h : s.sameMessage t) (e : Bool) (k : ErrCode) :
    (s.withError e k).sameMessage (t.withError e k) := by
  obtain ⟨hh, hl, hbc, hmode, -, -, hbuf⟩ := h
  exact ⟨hh, hl, hbc, hmode, rfl, rfl, hbuf⟩

/-- INIT brings any two states to the same point (44 R222, R234). -/
theorem sameMessage_startMessage (s t : State) : s.startMessage.sameMessage t.startMessage := by
  refine ⟨rfl, rfl, rfl, rfl, rfl, rfl, ?_⟩
  rw [buffered_of_bc_zero (startMessage_bc s), buffered_of_bc_zero (startMessage_bc t)]

theorem sameMessage_absorbByte (h : s.sameMessage t) (b : Byte) : (s.absorbByte b).sameMessage (t.absorbByte b) := by
  obtain ⟨hh, hl, hbc, hmode, herr, hcode, hbuf⟩ := h
  obtain ⟨hH, hB⟩ :
      (s.absorbByte b).h = (t.absorbByte b).h ∧ (s.absorbByte b).buffered = (t.absorbByte b).buffered := by
    by_cases hfull : s.bc.toNat + 1 = 64
    · have hfull' : t.bc.toNat + 1 = 64 := hbc ▸ hfull
      have hblock : setByte s.buf s.bc b = setByte t.buf t.bc b := by
        rw [← Vector.toList_inj, toList_setByte_full b hfull, toList_setByte_full b hfull', hbuf]
      rw [absorbByte_h_full b hfull, absorbByte_h_full b hfull', hh, hblock, buffered_absorbByte_full b hfull,
        buffered_absorbByte_full b hfull']
      exact ⟨rfl, rfl⟩
    · have hfull' : t.bc.toNat + 1 ≠ 64 := hbc ▸ hfull
      rw [absorbByte_h_inside b hfull, absorbByte_h_inside b hfull', buffered_absorbByte_inside b hfull,
        buffered_absorbByte_inside b hfull', hbuf]
      exact ⟨hh, rfl⟩
  exact ⟨hH, by simp [absorbByte_l, hl], by simp [absorbByte_bc, hbc], by simpa, by simpa, by simpa, hB⟩

theorem sameMessage_absorb (h : s.sameMessage t) (bs : List Byte) : (s.absorb bs).sameMessage (t.absorb bs) := by
  induction bs generalizing s t with
  | nil => exact h
  | cons b bs ih => exact ih (sameMessage_absorbByte h b)

theorem sameMessage_finish (h : s.sameMessage t) : s.finish.sameMessage t.finish := by
  obtain ⟨hh, hl, hbc, -, herr, hcode, hbuf⟩ := h
  refine ⟨by rw [finish_h, finish_h, hh, hl, hbc, hbuf], by simpa, by simp, by simp, by simpa, by simpa, ?_⟩
  rw [buffered_of_bc_zero (finish_bc s), buffered_of_bc_zero (finish_bc t)]

end

/-! ## Each command -/

/-- The results of a command on two states are next states at the same point of a message, with Y equal where it
was equal before. -/
def SameOutcome (s t : State) (r q : Result) : Prop :=
  ∃ s' t', r = .next s' ∧ q = .next t' ∧ s'.sameMessage t' ∧ (s.y = t.y → s'.y = t'.y)

section
variable {s t : State}

theorem sameOutcome_execPush (h : s.sameMessage t) (hA : s.opA = t.opA) (n : Nat) :
    SameOutcome s t (execPush n s) (execPush n t) := by
  have ⟨_, hl, _, hmode, herr, _, _⟩ := h
  obtain ⟨he, hs⟩ | ⟨he, hm, hs⟩ | ⟨he, hm, hlong, hs⟩ | ⟨he, hm, hfits, hs⟩ := execPush_cases n s
  · exact ⟨_, _, hs, execPush_of_err (herr ▸ he), h, id⟩
  · exact ⟨_, _, hs, execPush_of_finished (herr ▸ he) (hmode ▸ hm), sameMessage_withError h true .sequence, id⟩
  · exact ⟨_, _, hs, execPush_of_long (herr ▸ he) (hmode ▸ hm) (hl ▸ hlong),
      sameMessage_withError h true .length, id⟩
  · refine ⟨_, _, hs, execPush_of_ok (herr ▸ he) (hmode ▸ hm) (hl ▸ hfits), ?_, by simp⟩
    rw [hA]
    exact sameMessage_absorb h _

theorem sameOutcome_execFinal (h : s.sameMessage t) : SameOutcome s t (execFinal s) (execFinal t) := by
  have ⟨_, _, _, hmode, herr, _, _⟩ := h
  obtain ⟨he, hs⟩ | ⟨he, hm, hs⟩ | ⟨he, hm, hs⟩ := execFinal_cases s
  · exact ⟨_, _, hs, execFinal_of_err (herr ▸ he), h, id⟩
  · exact ⟨_, _, hs, execFinal_of_finished (herr ▸ he) (hmode ▸ hm),
      sameMessage_withError h true .sequence, id⟩
  · exact ⟨_, _, hs, execFinal_of_ok (herr ▸ he) (hmode ▸ hm), sameMessage_finish h, by simp⟩

theorem sameOutcome_exec (i : Instr) (h : s.sameMessage t) (hA : s.opA = t.opA) (hB : s.opB = t.opB)
    (hC : s.opC = t.opC) : SameOutcome s t (exec i s) (exec i t) := by
  obtain rfl | rfl | ⟨n, rfl⟩ | rfl | hAlu := instr_kind_cases i
  · exact ⟨_, _, exec_nop s, exec_nop t, h, id⟩
  · exact ⟨_, _, exec_init s, exec_init t, sameMessage_startMessage s t, id⟩
  · exact sameOutcome_execPush h hA n
  · exact sameOutcome_execFinal h
  · exact ⟨_, _, exec_alu hAlu s, exec_alu hAlu t, sameMessage_withY h _ _, by simp [hA, hB, hC]⟩

end

/-- Settles O37: each kind of command keeps two states at the same point of a message, the digest being H. -/
theorem staleStateIsUnobservable : Obligations.StaleStateIsUnobservable := by
  unfold Obligations.StaleStateIsUnobservable
  intro i s t h hA hB hC
  obtain ⟨s', t', hs, ht, hsame, hy⟩ := sameOutcome_exec i h hA hB hC
  have hdigest : s'.digest = t'.digest := by
    obtain ⟨hh, -⟩ := hsame
    rw [State.digest, State.digest, hh]
  exact ⟨s', t', hs, ht, hsame, hdigest, hy⟩

end Sys2Proof.Machine
end

section
/-! PROOF. The invariant of every state a run reaches: each effect of a command keeps it, so completion keeps it, so an
edge does (10 R23, R25, R27). -/

namespace Sys2Proof.Machine

/-! ## The effects of the commands -/

section
variable {s : State}

theorem inv_withHs (h : s.Inv) (v : Handshake) : (s.withHs v).Inv := { h with }

theorem inv_withHost (h : s.Inv) (v : List PortIn) : (s.withHost v).Inv := { h with }

theorem inv_withFresh (h : s.Inv) (v : Nat) : (s.withFresh v).Inv := { h with }

theorem inv_withY (h : s.Inv) (v : Word) : (s.withY v).Inv := { h with }

theorem inv_withError (h : s.Inv) {code : ErrCode} (hcode : code ≠ .noError) : (s.withError true code).Inv :=
  { h with error_code := by simp [hcode] }

theorem inv_raiseError (h : s.Inv) {code : ErrCode} (hcode : code ≠ .noError) : (s.raiseError code).Inv := by
  cases herr : s.err
  · rw [raiseError_of_no_err code herr]
    exact inv_withError h hcode
  · rwa [raiseError_of_err code herr]

theorem inv_startMessage (h : s.Inv) : s.startMessage.Inv where
  length_bytes := by simp
  bc_active := by simp
  bc_finished := by simp
  error_code := by simp
  engine_idle := by simpa using h.engine_idle

/-- L grows by 8 and BC by 1 modulo 64 with each byte, so BC stays `(L/8) mod 64` (10 R25). -/
theorem inv_absorb (h : s.Inv) (hm : s.mode = .active) (bs : List Byte) (hfits : s.l.toNat + 8 * bs.length < 2 ^ 64) :
    (s.absorb bs).Inv where
  length_bytes := by
    have hl := h.length_bytes
    rw [absorb_l_toNat bs s hfits]; omega
  bc_active _ := by
    have hl := h.length_bytes
    have hbc := h.bc_active hm
    rw [absorb_bc_toNat, absorb_l_toNat bs s hfits, hbc]; omega
  bc_finished hf := by simp [hm] at hf
  error_code := by simpa using h.error_code
  engine_idle := absorb_phase bs s h.engine_idle

theorem inv_finish (h : s.Inv) : s.finish.Inv where
  length_bytes := by simpa using h.length_bytes
  bc_active := by simp
  bc_finished := by simp
  error_code := by simpa using h.error_code
  engine_idle := finish_phase s

end

theorem inv_resetEdge (s : State) : s.resetEdge.Inv :=
  have hreset : State.reset.Inv := ⟨by decide, by decide, by decide, by decide, by decide⟩
  inv_withFresh (inv_withHost hreset s.host) s.fresh

/-! ## Commands and edges -/

section
variable {s t : State}

theorem inv_execPush {n : Nat} (h : s.Inv) (ht : execPush n s = .next t) : t.Inv := by
  obtain ⟨-, hs⟩ | ⟨-, -, hs⟩ | ⟨-, -, -, hs⟩ | ⟨-, hm, hfits, hs⟩ := execPush_cases n s <;>
    cases hs.symm.trans ht
  · exact h
  · exact inv_withError h (by decide)
  · exact inv_withError h (by decide)
  · apply inv_absorb h hm
    rw [laneBytes_length]
    exact Nat.lt_of_le_of_lt hfits (by decide)

theorem inv_execFinal (h : s.Inv) (ht : execFinal s = .next t) : t.Inv := by
  obtain ⟨-, hs⟩ | ⟨-, -, hs⟩ | ⟨-, -, hs⟩ := execFinal_cases s <;> cases hs.symm.trans ht
  · exact h
  · exact inv_withError h (by decide)
  · exact inv_finish h

theorem inv_exec {i : Instr} (h : s.Inv) (ht : exec i s = .next t) : t.Inv := by
  obtain rfl | rfl | ⟨n, rfl⟩ | rfl | hAlu := instr_kind_cases i
  · cases (exec_nop s).symm.trans ht
    exact h
  · cases (exec_init s).symm.trans ht
    exact inv_startMessage h
  · exact inv_execPush h ht
  · exact inv_execFinal h ht
  · cases (exec_alu hAlu s).symm.trans ht
    exact inv_withY h _

theorem inv_completeCommand {c : Command} (h : s.Inv) (ht : completeCommand c s = .next t) : t.Inv := by
  obtain ⟨u, hu, rfl⟩ := completeCommand_cases ht
  apply inv_withHs
  cases hd : decode c.cmd with
  | illegal why =>
    cases (dispatch_illegal s hd).symm.trans hu
    exact inv_raiseError h (by decide)
  | instr i => exact inv_exec h ((dispatch_instr s hd).symm.trans hu)

theorem inv_performCommand {c : Command} (h : s.Inv) (ht : performCommand c s = .next t) : t.Inv :=
  inv_completeCommand (inv_withHs h _) ht

/-- What one edge does to the invariant: reset sets it up anew, completion keeps it, every other edge leaves its
registers alone. -/
theorem inv_step (h : s.Inv) (ht : step s = .next t) : t.Inv := by
  have hadv : s.advanceHost.Inv := inv_withHost h s.host.tail
  obtain ⟨-, hs⟩ | ⟨c, -, -, hs⟩ | ⟨-, -, -, hs⟩ | ⟨-, v, fresh, hs⟩ := step_cases s
  · cases hs.symm.trans ht
    exact inv_resetEdge _
  · exact inv_completeCommand hadv (hs.symm.trans ht)
  · exact inv_performCommand (inv_withFresh hadv _) (hs.symm.trans ht)
  · cases hs.symm.trans ht
    exact inv_withFresh (inv_withHs hadv v) fresh

end

/-- Settles O52: by the cases of one edge. -/
theorem stepKeepsTheInvariant : Obligations.StepKeepsTheInvariant := by
  unfold Obligations.StepKeepsTheInvariant
  intro s t h ht
  exact inv_step h ht

end Sys2Proof.Machine
end

section
/-! PROOF. The status word bit by bit (10 R35), and the edges at which registers and outputs may change (10 R37, 20 R61,
44 R229). -/

namespace Sys2Proof.Machine

/-! ## The status word -/

/-- Bit i of the status word (10 R35). -/
def statusBit (s : State) : Nat → Bool
  | 0 => s.busy
  | 1 => s.done
  | 2 => s.err
  | 3 => false
  | i + 4 => s.errcode.bits.getLsbD i

theorem status_getLsbD (s : State) (i : Nat) : s.status.getLsbD i = statusBit s i := by
  simp only [State.status, BitVec.getLsbD_append]
  match i with
  | 0 | 1 | 2 | 3 => simp [statusBit]
  | i + 4 =>
    by_cases hi : i < 2
    · simp [statusBit, hi]
    · simp [statusBit, hi, BitVec.getLsbD_of_ge _ i (Nat.le_of_not_lt hi)]

theorem done_eq_true_iff (s : State) : s.done = true ↔ s.mode = .finished := by simp [State.done]

theorem status_extract_errcode (s : State) : s.status.extractLsb' 4 2 = s.errcode.bits := by
  apply BitVec.eq_of_getLsbD_eq
  intro i hi
  rw [BitVec.getLsbD_extractLsb', status_getLsbD, Nat.add_comm]
  simp [hi, statusBit]

theorem statusBit_of_ge_six (s : State) {i : Nat} (hi : 6 ≤ i) : statusBit s i = false := by
  obtain ⟨j, rfl⟩ := Nat.exists_eq_add_of_le' hi
  exact BitVec.getLsbD_of_ge _ _ (by omega)

/-- Settles O40: bit by bit. -/
theorem statusWordFields : Obligations.StatusWordFields := by
  unfold Obligations.StatusWordFields
  refine ⟨fun s => ⟨status_getLsbD s 0, ?done, status_getLsbD s 2, status_getLsbD s 3, status_extract_errcode s,
    fun i hi => ?above⟩, rfl, rfl, rfl, rfl, by decide, by decide⟩
  case done => rw [status_getLsbD, ← done_eq_true_iff, statusBit]
  case above => rw [status_getLsbD, statusBit_of_ge_six s hi]

/-- Of `status`, only BUSY depends on the handshake. -/
theorem statusBit_congr {s t : State} (hmode : s.mode = t.mode) (herr : s.err = t.err)
    (hcode : s.errcode = t.errcode) {i : Nat} (hi : 1 ≤ i) : statusBit s i = statusBit t i := by
  match i, hi with
  | 1, _ => simp [statusBit, State.done, hmode]
  | 2, _ => exact herr
  | 3, _ => rfl
  | i + 4, _ => simp [statusBit, hcode]

/-! ## Edges without a completion -/

/-- Settles O51: of the cases of one edge, two are excluded by the hypotheses, one completes the accepted command, and
the last moves only the handshake, the host's list and the counter. -/
theorem registersChangeOnlyAtCompletion : Obligations.RegistersChangeOnlyAtCompletion := by
  unfold Obligations.RegistersChangeOnlyAtCompletion
  intro s hrst hlast
  obtain ⟨hr, -⟩ | ⟨c, -, hc, -⟩ | ⟨-, hidle, hvalid, hs⟩ | ⟨-, v, fresh, hs⟩ := step_cases s
  · simp [hrst] at hr
  · exact absurd hc (hlast c)
  · obtain ⟨t, ht⟩ := completeCommand_next s.portIn.command
      ((s.advanceHost.withFresh (s.fresh + 1)).withHs (.running s.portIn.command 0))
    have hready : s.cmdReady = true := by simp [State.cmdReady, State.busy, hidle]
    exact ⟨_, hs.trans ht, .inl ⟨hready, hvalid, by simp [State.cmdReady, State.busy], hs⟩⟩
  · refine ⟨_, hs, .inr ⟨⟨rfl, rfl, rfl, rfl, rfl, rfl, rfl, rfl⟩, rfl, rfl, fun i hi => ?_⟩⟩
    rw [status_getLsbD, status_getLsbD]
    exact statusBit_congr (s := (s.advanceHost.withHs v).withFresh fresh) (t := s) rfl rfl rfl hi

end Sys2Proof.Machine
end

section
/-! PROOF. The constants as roots (10 R21, R22): a word w of fraction bits under the integer root q of p is the root
`q * 2^32 + w` of p scaled by `2^(32k)`. -/

namespace Sys2Proof.Machine

/-- The integer k-th root of p. -/
def integerRoot (k p : Nat) : Nat := Nat.findGreatest (fun q => q ^ k ≤ p) p

/-- The k-th root of p with the word `w` as its first 32 fraction bits, scaled by 2^32. -/
def scaledRoot (k p : Nat) (w : Word) : Nat := integerRoot k p * 2 ^ 32 + w.toNat

theorem scaledRoot_mod (k p : Nat) (w : Word) : w.toNat = scaledRoot k p w % 2 ^ 32 := by
  have := w.isLt
  simp only [scaledRoot]; omega

/-- Settles O25: the words are the fraction parts of roots, whose bounds are evaluated. -/
theorem constantsAreRootFractions : Obligations.ConstantsAreRootFractions := by
  unfold Obligations.ConstantsAreRootFractions
  intro primes
  have hsquare : ∀ i : Fin 8,
      scaledRoot 2 (primes.getD i 0) iv[i] ^ 2 ≤ primes.getD i 0 * 2 ^ 64 ∧
      primes.getD i 0 * 2 ^ 64 < (scaledRoot 2 (primes.getD i 0) iv[i] + 1) ^ 2 := by decide +kernel
  have hcube : ∀ i : Fin 64,
      scaledRoot 3 (primes.getD i 0) kRom[i] ^ 3 ≤ primes.getD i 0 * 2 ^ 96 ∧
      primes.getD i 0 * 2 ^ 96 < (scaledRoot 3 (primes.getD i 0) kRom[i] + 1) ^ 3 := by decide +kernel
  constructor
  · intro i
    obtain ⟨hle, hlt⟩ := hsquare i
    exact ⟨_, hle, hlt, scaledRoot_mod 2 _ _⟩
  · intro i
    obtain ⟨hle, hlt⟩ := hcube i
    exact ⟨_, hle, hlt, scaledRoot_mod 3 _ _⟩

end Sys2Proof.Machine
end

section
/-! PROOF. Byte order at the ports: the lanes of a PUSH (20 R54) and the bytes of the digest (10 R36, 20 R56). -/

namespace Sys2Proof.Machine

/-! ## The lanes of a PUSH -/

theorem lane_eq (a : Word) (k : Nat) : lane a k = BitVec.ofNat 8 (a.toNat / 2 ^ (24 - 8 * k)) := by
  rw [← Nat.shiftRight_eq_div_pow]; rfl

theorem laneBytes_eq_take {n : Nat} (a : Word) (hn : n ≤ 4) : laneBytes n a = (laneBytes 4 a).take n := by
  rw [laneBytes, laneBytes, ← List.map_take, List.take_range, Nat.min_eq_left hn]

/-- A lane of a PUSH of `n` lies in the upper `8n` bits of its word: its position there is `8 (n - 1 - k)`. -/
theorem lane_eq_of_upper {n k : Nat} (a : Word) (hk : k < n) (hn : n ≤ 4) :
    lane a k = BitVec.ofNat 8 (a.toNat / 2 ^ (32 - 8 * n) / 2 ^ (8 * (n - 1 - k))) := by
  have hpos : 24 - 8 * k = 32 - 8 * n + 8 * (n - 1 - k) := by omega
  rw [lane_eq, hpos, Nat.pow_add, Nat.div_div_eq_div_mul]

/-- The bits below the lanes are ignored (20 R54). -/
theorem laneBytes_congr {n : Nat} {a b : Word} (hn : n ≤ 4)
    (h : a.toNat / 2 ^ (32 - 8 * n) = b.toNat / 2 ^ (32 - 8 * n)) : laneBytes n a = laneBytes n b := by
  apply List.map_congr_left
  intro k hk
  have hk' := List.mem_range.mp hk
  rw [lane_eq_of_upper a hk' hn, lane_eq_of_upper b hk' hn, h]

/-- PUSH uses the handshake, which holds the sampled operands, for nothing but its lane bytes. -/
theorem execPush_withHs {n : Nat} {s : State} {v : Handshake}
    (h : laneBytes n (s.withHs v).opA = laneBytes n s.opA) :
    ∃ u, execPush n s = .next u ∧ execPush n (s.withHs v) = .next (u.withHs v) := by
  obtain ⟨he, hs⟩ | ⟨he, hm, hs⟩ | ⟨he, hm, hlong, hs⟩ | ⟨he, hm, hfits, hs⟩ := execPush_cases n s
  · exact ⟨_, hs, execPush_of_err he⟩
  · exact ⟨_, hs, execPush_of_finished he hm⟩
  · exact ⟨_, hs, execPush_of_long he hm hlong⟩
  · exact ⟨_, hs, by rw [execPush_of_ok (s := s.withHs v) he hm hfits, h, absorb_withHs]⟩

/-- Settles O18: the lanes lie in the upper bits, and the lane bytes are all that PUSH takes from its operand. -/
theorem pushByteLanes : Obligations.PushByteLanes := by
  unfold Obligations.PushByteLanes
  refine ⟨fun a => ?lanes, fun n a hn => laneBytes_eq_take a hn, ?ignored⟩
  case lanes => simp [laneBytes, List.range_succ, lane_eq]
  case ignored =>
    rintro n a b - hn hupper s t rfl rfl ht
    have hwith : t = s.withHs t.hs := ht
    have hlanes : laneBytes n (s.withHs t.hs).opA = laneBytes n s.opA := by
      rw [← hwith]
      exact laneBytes_congr hn hupper.symm
    obtain ⟨u, hs, hu⟩ := execPush_withHs hlanes
    exact ⟨u, u.withHs t.hs, by rw [exec_push, hs], by rw [exec_push, ← hu, ← hwith], rfl⟩

/-! ## The digest port -/

/-- Word i of the port: the words after it are shifted out, the words before it are cut off (10 R36). -/
theorem digestOf_word (h : HashState) {i : Nat} (hi : i < 8) :
    (digestOf h).extractLsb' (224 - 32 * i) 32 = h[i] := by
  unfold digestOf
  interval_cases i
  all_goals repeat rw [BitVec.extractLsb'_append_eq_of_le (by omega)]
  · exact BitVec.extractLsb'_eq_self
  all_goals exact BitVec.extractLsb'_append_eq_right

/-- Serialized byte `4i + k` is byte k of word i, most significant byte first (20 R56). -/
theorem digestByte_eq_byte_of_word (d : BitVec 256) {i k : Nat} (hi : i < 8) (hk : k < 4) :
    digestByte d (4 * i + k) = (d.extractLsb' (224 - 32 * i) 32).extractLsb' (24 - 8 * k) 8 := by
  have hpos : 248 - 8 * (4 * i + k) = 224 - 32 * i + (24 - 8 * k) := by omega
  apply BitVec.eq_of_getLsbD_eq
  intro j hj
  have hj' : 24 - 8 * k + j < 32 := by omega
  simp [digestByte, hj, hj', hpos, Nat.add_assoc]

/-- Settles O41: word by word, then byte by byte within a word. -/
theorem digestLayout : Obligations.DigestLayout := by
  unfold Obligations.DigestLayout
  intro s
  refine ⟨fun i hi => digestOf_word s.h hi, fun i k hi hk => ?_⟩
  rw [digestByte_eq_byte_of_word _ hi hk, State.digest, digestOf_word s.h hi]

end Sys2Proof.Machine
end

section
/-! PROOF. Decoder and encoder are inverse to each other (30 R71 to R76, R79): what the fields of an encoded word are,
and which word given fields come from. -/

namespace Sys2Proof.Machine

/-! ## The fields of an encoded word -/

section
variable (opc fn : BitVec 4) (cnt : BitVec 2) (sh : BitVec 5)

@[simp] theorem opcField_encodeN : opcField (encodeN opc) = opc := BitVec.extractLsb'_append_eq_left
@[simp] theorem reservedN_encodeN : reservedN (encodeN opc) = 0 := BitVec.extractLsb'_append_eq_right

@[simp] theorem opcField_encodeP : opcField (encodeP cnt) = 2 := by revert cnt; decide
@[simp] theorem reservedP_encodeP : reservedP (encodeP cnt) = 0 := by revert cnt; decide
@[simp] theorem cntField_encodeP : cntField (encodeP cnt) = cnt := BitVec.extractLsb'_append_eq_right

/-- Format A without its lowest field: what lies at and above bit 5 does not depend on SH. -/
theorem encodeA_extract_above {start len : Nat} (h : 5 ≤ start) :
    (encodeA fn sh).extractLsb' start len = (encodeA fn 0).extractLsb' start len := by
  unfold encodeA
  rw [BitVec.extractLsb'_append_eq_of_le h, BitVec.extractLsb'_append_eq_of_le h]

@[simp] theorem opcField_encodeA : opcField (encodeA fn sh) = 4 := by
  rw [opcField, encodeA_extract_above fn sh (by decide)]; revert fn; decide
@[simp] theorem fnField_encodeA : fnField (encodeA fn sh) = fn := by
  rw [fnField, encodeA_extract_above fn sh (by decide)]; revert fn; decide
@[simp] theorem reservedA_encodeA : reservedA (encodeA fn sh) = 0 := by
  rw [reservedA, encodeA_extract_above fn sh (by decide)]; revert fn; decide
@[simp] theorem shField_encodeA : shField (encodeA fn sh) = sh := BitVec.extractLsb'_append_eq_right

end

/-! ## Decoding an encoded word -/

theorem wf_push_iff {n : Nat} : (Instr.push n).wf = true ↔ 1 ≤ n ∧ n ≤ 4 := by
  simp [Instr.wf, pushCountOk]

theorem wf_rotr_iff {sh : Nat} : (Instr.rotr sh).wf = true ↔ sh ≤ 31 := by
  simp [Instr.wf, shiftAmountOk]

theorem wf_shr_iff {sh : Nat} : (Instr.shr sh).wf = true ↔ sh ≤ 31 := by
  simp [Instr.wf, shiftAmountOk]

/-- CNT is the count less one, and no count is lost (30 R72). -/
theorem cnt_toNat {n : Nat} (h : 1 ≤ n ∧ n ≤ 4) : (BitVec.ofNat 2 (n - 1)).toNat + 1 = n := by
  rw [BitVec.toNat_ofNat]; omega

theorem amount_toNat {sh : Nat} (h : sh ≤ 31) : (BitVec.ofNat 5 sh).toNat = sh := by
  rw [BitVec.toNat_ofNat]; omega

theorem decode_encodeP (cnt : BitVec 2) : decode (encodeP cnt) = .instr (.push (cnt.toNat + 1)) := by
  simp [decode]

theorem decode_encodeA (fn : BitVec 4) (sh : BitVec 5) : decode (encodeA fn sh) = decodeFn (encodeA fn sh) := by
  simp [decode]

theorem decode_encodeA_zero (sh : BitVec 5) : decode (encodeA 0 sh) = .instr (.rotr sh.toNat) := by
  simp [decode_encodeA, decodeFn]

theorem decode_encodeA_one (sh : BitVec 5) : decode (encodeA 1 sh) = .instr (.shr sh.toNat) := by
  simp [decode_encodeA, decodeFn]

theorem decode_encode {i : Instr} (h : i.wf = true) : decode (encode i) = .instr i := by
  cases i with
  | push n => rw [encode, decode_encodeP, cnt_toNat (wf_push_iff.mp h)]
  | rotr sh => rw [encode, decode_encodeA_zero, amount_toNat (wf_rotr_iff.mp h)]
  | shr sh => rw [encode, decode_encodeA_one, amount_toNat (wf_shr_iff.mp h)]
  | nop | init | final | and | or | xor | not | add | ssig0 | ssig1 | bsig0 | bsig1 | ch | maj => rfl

/-! ## The word of given fields -/

section
variable {w : Word}

/-- A word is its fields put together (30 R71 to R73). -/
theorem eq_opcField_append_reservedN (w : Word) : opcField w ++ reservedN w = w :=
  BitVec.extractLsb'_append_extractLsb'

theorem eq_encodeN (h : reservedN w = 0) : encodeN (opcField w) = w := by
  rw [encodeN, ← h, eq_opcField_append_reservedN]

theorem eq_encodeP (hopc : opcField w = 2) (h : reservedP w = 0) : encodeP (cntField w) = w := by
  rw [encodeP, ← hopc, ← h]
  unfold opcField reservedP cntField
  rw [BitVec.extractLsb'_append_extractLsb'_eq_extractLsb' (show 28 = 2 + 26 from rfl)]
  exact BitVec.extractLsb'_append_extractLsb'

theorem eq_encodeA (hopc : opcField w = 4) (h : reservedA w = 0) : encodeA (fnField w) (shField w) = w := by
  rw [encodeA, ← hopc, ← h]
  unfold opcField fnField reservedA shField
  rw [BitVec.extractLsb'_append_extractLsb'_eq_extractLsb' (show 28 = 24 + 4 from rfl),
    BitVec.extractLsb'_append_extractLsb'_eq_extractLsb' (show 24 = 5 + 19 from rfl)]
  exact BitVec.extractLsb'_append_extractLsb'

/-! ## What the decoder's parts answer -/

theorem eq_ofNat_of_toNat_eq {n k : Nat} {x : BitVec n} (h : x.toNat = k) : x = BitVec.ofNat n k := by
  rw [← h, BitVec.ofNat_toNat, BitVec.setWidth_eq]

theorem decodeN_eq_instr {i j : Instr} (h : decodeN w j = .instr i) : reservedN w = 0 ∧ j = i := by
  unfold decodeN at h
  split at h <;> simp_all

theorem decodeNoShift_eq_instr {i j : Instr} (h : decodeNoShift w j = .instr i) : shField w = 0 ∧ j = i := by
  unfold decodeNoShift at h
  split at h <;> simp_all

/-- A function without a shift amount: its command is encoded by FN alone. -/
theorem encode_of_decodeNoShift {i j : Instr} (hj : j.wf = true) (henc : encode j = encodeA (fnField w) 0)
    (h : decodeNoShift w j = .instr i) : i.wf = true ∧ encode i = encodeA (fnField w) (shField w) := by
  obtain ⟨hsh, rfl⟩ := decodeNoShift_eq_instr h
  exact ⟨hj, by rw [henc, hsh]⟩

/-- The command of a function is encoded by FN and SH (30 R73, R76). -/
theorem encode_of_decodeFn {i : Instr} (h : decodeFn w = .instr i) :
    i.wf = true ∧ encode i = encodeA (fnField w) (shField w) := by
  unfold decodeFn at h
  split at h
  case h_1 hk | h_2 hk =>
    cases h
    have hsh : (shField w).toNat ≤ 31 := Nat.le_of_lt_succ (shField w).isLt
    exact ⟨decide_eq_true hsh, by rw [encode, eq_ofNat_of_toNat_eq hk, BitVec.ofNat_toNat, BitVec.setWidth_eq]; rfl⟩
  case h_14 => cases h
  all_goals
    rename_i hk
    exact encode_of_decodeNoShift rfl (by rw [eq_ofNat_of_toNat_eq hk]; rfl) h

theorem encode_of_decode {i : Instr} (h : decode w = .instr i) : i.wf = true ∧ encode i = w := by
  unfold decode at h
  split at h
  case h_1 hk | h_2 hk | h_4 hk =>
    obtain ⟨hr, rfl⟩ := decodeN_eq_instr h
    exact ⟨rfl, by rw [← eq_encodeN hr, eq_ofNat_of_toNat_eq hk]; rfl⟩
  case h_3 hk =>
    split at h
    case isFalse => cases h
    case isTrue hr =>
      cases h
      have hcnt := (cntField w).isLt
      refine ⟨wf_push_iff.mpr (by omega), ?_⟩
      rw [encode, Nat.add_sub_cancel, BitVec.ofNat_toNat, BitVec.setWidth_eq, eq_encodeP (eq_ofNat_of_toNat_eq hk) hr]
  case h_5 hk =>
    split at h
    case isFalse => cases h
    case isTrue hr =>
      obtain ⟨hwf, henc⟩ := encode_of_decodeFn h
      exact ⟨hwf, by rw [henc, eq_encodeA (eq_ofNat_of_toNat_eq hk) hr]⟩
  case h_6 => cases h

theorem decode_eq_instr_iff {i : Instr} : decode w = .instr i ↔ i.wf = true ∧ encode i = w :=
  ⟨encode_of_decode, fun ⟨hwf, henc⟩ => henc ▸ decode_encode hwf⟩

end

/-- Settles O2: command by command, from the fields of the encoded word. -/
theorem decodeOfEncode : Obligations.DecodeOfEncode := by
  unfold Obligations.DecodeOfEncode
  intro i h
  exact decode_encode h

/-- Settles O3: case by case of the decoder, the word put together again from its fields. -/
theorem encodeOfDecode : Obligations.EncodeOfDecode := by
  unfold Obligations.EncodeOfDecode
  intro w i h
  exact encode_of_decode h

/-- Settles O1: the decoder run on each word. -/
theorem tableWordsDecode : Obligations.TableWordsDecode := by
  unfold Obligations.TableWordsDecode
  decide

end Sys2Proof.Machine
end

section
/-! PROOF. The match and mask table is the decoder (30 R77), and the illegal words (30 R78). -/

namespace Sys2Proof.Machine

/-! ## Legal words are the encodings of the well-formed commands -/

/-- A word is legal or illegal, and not both (30 R79: the decoder is total). -/
theorem illegal_iff_not_legal (w : Word) :
    (∃ why, decode w = .illegal why) ↔ ¬ ∃ i, decode w = .instr i := by
  cases decode w <;> simp

/-- The commands without an operand field. -/
def plainCommands : List Instr :=
  [.nop, .init, .final, .and, .or, .xor, .not, .add, .ssig0, .ssig1, .bsig0, .bsig1, .ch, .maj]

/-- The well-formed commands: 14 without an operand field, 4 PUSHes, 32 rotations and 32 shifts. -/
def wfCommands : List Instr :=
  plainCommands ++ (List.range 4).map (fun k => Instr.push (k + 1)) ++ (List.range 32).map Instr.rotr ++
    (List.range 32).map Instr.shr

theorem mem_wfCommands_iff (i : Instr) : i ∈ wfCommands ↔ i.wf = true := by
  cases i with
  | push n =>
    have hrange : (∃ k < 4, k + 1 = n) ↔ 1 ≤ n ∧ n ≤ 4 :=
      ⟨fun ⟨k, hk, hn⟩ => by omega, fun ⟨h1, h4⟩ => ⟨n - 1, by omega, by omega⟩⟩
    simpa [wfCommands, plainCommands, wf_push_iff] using hrange
  | rotr sh | shr sh => simp [wfCommands, plainCommands, wf_rotr_iff, wf_shr_iff, Nat.lt_succ_iff]
  | nop | init | final | and | or | xor | not | add | ssig0 | ssig1 | bsig0 | bsig1 | ch | maj =>
    simp [wfCommands, plainCommands, Instr.wf]

/-- The legal words. -/
def legalWords : List Word := wfCommands.map encode

theorem mem_legalWords_iff (w : Word) : w ∈ legalWords ↔ ∃ i, decode w = .instr i := by
  simp [legalWords, mem_wfCommands_iff, decode_eq_instr_iff]

/-- Different commands have different words, since the decoder tells them apart. -/
theorem legalWords_nodup : legalWords.Nodup := by
  refine List.Nodup.map_on (fun i hi j hj h => ?_) (by decide : wfCommands.Nodup)
  have hdecode := decode_encode ((mem_wfCommands_iff i).mp hi)
  rw [h, decode_encode ((mem_wfCommands_iff j).mp hj)] at hdecode
  injection hdecode with hji
  exact hji.symm

/-! ## Rows -/

/-- Each command's encoding lies in its own row only, whatever the command (30 R77). -/
theorem rows_of_encode (i : Instr) : Laws.EncodingInRow.Statement i := by
  cases i with
  | nop => exact Laws.EncodingInRow.nop
  | init => exact Laws.EncodingInRow.init
  | push n => exact Laws.EncodingInRow.push n
  | final => exact Laws.EncodingInRow.final
  | rotr sh => exact Laws.EncodingInRow.rotr sh
  | shr sh => exact Laws.EncodingInRow.shr sh
  | and => exact Laws.EncodingInRow.and
  | or => exact Laws.EncodingInRow.or
  | xor => exact Laws.EncodingInRow.xor
  | not => exact Laws.EncodingInRow.not
  | add => exact Laws.EncodingInRow.add
  | ssig0 => exact Laws.EncodingInRow.ssig0
  | ssig1 => exact Laws.EncodingInRow.ssig1
  | bsig0 => exact Laws.EncodingInRow.bsig0
  | bsig1 => exact Laws.EncodingInRow.bsig1
  | ch => exact Laws.EncodingInRow.ch
  | maj => exact Laws.EncodingInRow.maj

theorem rows_of_decode {w : Word} {i : Instr} (h : decode w = .instr i) :
    (opcodeRows.filter fun r => r.hits w).map OpcodeRow.mnemonic = [i.mnemonic] := by
  obtain ⟨hwf, rfl⟩ := encode_of_decode h
  exact rows_of_encode i hwf

theorem hits_iff {r : OpcodeRow} {w : Word} : r.hits w = true ↔ w &&& r.mask = r.pattern := beq_iff_eq

section
variable {r : OpcodeRow} {w : Word} (h : r.hits w = true)
include h

/-- A row fixes the fields that its mask covers. -/
theorem extract_of_hits {start len : Nat} (hmask : r.mask.extractLsb' start len = BitVec.allOnes len) :
    w.extractLsb' start len = r.pattern.extractLsb' start len := by
  rw [← hits_iff.mp h, BitVec.extractLsb'_and, hmask, BitVec.and_allOnes]

/-- A row without free bits is hit by its own pattern only. -/
theorem eq_pattern_of_hits (hmask : r.mask = 0xFFFFFFFF) : w = r.pattern := by
  rw [← hits_iff.mp h, hmask]
  exact BitVec.and_allOnes.symm

/-- PUSH's row: OPC is 2 and the reserved bits are 0, so the word is a PUSH whatever CNT is. -/
theorem legal_of_hits_push (hr : r.pattern = 0x20000000 ∧ r.mask = 0xFFFFFFFC) : ∃ i, decode w = .instr i := by
  obtain ⟨hp, hm⟩ := hr
  have hopc : opcField w = 2 := by rw [opcField, extract_of_hits h (by rw [hm]; rfl), hp]; rfl
  have hres : reservedP w = 0 := by rw [reservedP, extract_of_hits h (by rw [hm]; rfl), hp]; rfl
  exact ⟨_, by rw [← eq_encodeP hopc hres, decode_encodeP]⟩

/-- The rows of ROTR and SHR: all fields but SH are fixed, and FN 0 and 1 take every SH. -/
theorem legal_of_hits_shift (hr : (r.pattern = 0x40000000 ∨ r.pattern = 0x41000000) ∧ r.mask = 0xFFFFFFE0) :
    ∃ i, decode w = .instr i := by
  obtain ⟨hp, hm⟩ := hr
  have hopc : opcField w = 4 := by
    rw [opcField, extract_of_hits h (by rw [hm]; rfl)]; rcases hp with hp | hp <;> rw [hp] <;> rfl
  have hres : reservedA w = 0 := by
    rw [reservedA, extract_of_hits h (by rw [hm]; rfl)]; rcases hp with hp | hp <;> rw [hp] <;> rfl
  have hfn : fnField w = fnField r.pattern := extract_of_hits h (by rw [hm]; rfl)
  rw [← eq_encodeA hopc hres, hfn]
  obtain hp | hp := hp <;> rw [hp]
  · exact ⟨_, decode_encodeA_zero _⟩
  · exact ⟨_, decode_encodeA_one _⟩

end

/-- The rows by their free bits: none, CNT or SH (30 R77). -/
theorem row_kind_cases : ∀ r ∈ opcodeRows,
    (r.mask = 0xFFFFFFFF ∧ (decode r.pattern).instr?.isSome = true) ∨
    (r.pattern = 0x20000000 ∧ r.mask = 0xFFFFFFFC) ∨
    ((r.pattern = 0x40000000 ∨ r.pattern = 0x41000000) ∧ r.mask = 0xFFFFFFE0) := by decide

theorem legal_of_hits {r : OpcodeRow} {w : Word} (hr : r ∈ opcodeRows) (h : r.hits w = true) :
    ∃ i, decode w = .instr i := by
  obtain ⟨hm, hsome⟩ | hpush | hshift := row_kind_cases r hr
  · rw [eq_pattern_of_hits h hm]
    cases hd : decode r.pattern with
    | instr i => exact ⟨i, rfl⟩
    | illegal why => simp [hd, Decoded.instr?] at hsome
  · exact legal_of_hits_push h hpush
  · exact legal_of_hits_shift h hshift

theorem illegal_iff_no_row (w : Word) :
    (∃ why, decode w = .illegal why) ↔ ∀ r ∈ opcodeRows, r.hits w = false := by
  rw [illegal_iff_not_legal]
  constructor
  · intro hill r hr
    by_contra hhit
    exact hill (legal_of_hits hr (Bool.eq_true_of_not_eq_false hhit))
  · rintro hnone ⟨i, hi⟩
    have hempty : opcodeRows.filter (fun r => r.hits w) = [] :=
      List.filter_eq_nil_iff.mpr fun r hr => by simp [hnone r hr]
    simpa [hempty] using rows_of_decode hi

/-! ## The fields as numbers -/

section
variable (w : Word)

theorem opcField_toNat : (opcField w).toNat = w.toNat / 2 ^ 28 := by
  have := w.isLt
  rw [opcField, BitVec.extractLsb'_toNat, Nat.shiftRight_eq_div_pow]; omega

theorem fnField_toNat : (fnField w).toNat = w.toNat / 2 ^ 24 % 16 := by
  rw [fnField, BitVec.extractLsb'_toNat, Nat.shiftRight_eq_div_pow]

theorem shField_toNat : (shField w).toNat = w.toNat % 32 := by
  rw [shField, BitVec.extractLsb'_toNat, Nat.shiftRight_zero]

theorem cntField_toNat : (cntField w).toNat = w.toNat % 4 := by
  rw [cntField, BitVec.extractLsb'_toNat, Nat.shiftRight_zero]

theorem reservedN_toNat : (reservedN w).toNat = w.toNat % 2 ^ 28 := by
  rw [reservedN, BitVec.extractLsb'_toNat, Nat.shiftRight_zero]

theorem reservedP_toNat : (reservedP w).toNat = w.toNat / 4 % 2 ^ 26 := by
  rw [reservedP, BitVec.extractLsb'_toNat, Nat.shiftRight_eq_div_pow]

theorem reservedA_toNat : (reservedA w).toNat = w.toNat / 32 % 2 ^ 19 := by
  rw [reservedA, BitVec.extractLsb'_toNat, Nat.shiftRight_eq_div_pow]

end

theorem push_count_of_decode {w : Word} {n : Nat} (h : decode w = .instr (.push n)) : n = w.toNat % 4 + 1 := by
  obtain ⟨hwf, rfl⟩ := encode_of_decode h
  rw [← cntField_toNat, encode, cntField_encodeP, cnt_toNat (wf_push_iff.mp hwf)]

theorem shift_amount_of_decode {w : Word} {sh : Nat}
    (h : decode w = .instr (.rotr sh) ∨ decode w = .instr (.shr sh)) : sh = w.toNat % 32 := by
  obtain h | h := h
  · obtain ⟨hwf, rfl⟩ := encode_of_decode h
    rw [← shField_toNat, encode, shField_encodeA, amount_toNat (wf_rotr_iff.mp hwf)]
  · obtain ⟨hwf, rfl⟩ := encode_of_decode h
    rw [← shField_toNat, encode, shField_encodeA, amount_toNat (wf_shr_iff.mp hwf)]

/-- Settles O4: a legal word is its command's encoding, which lies in one row; a row that hits gives a legal word; the
legal words are counted as the well-formed commands. -/
theorem opcodeTableIsTheDecoder : Obligations.OpcodeTableIsTheDecoder := by
  unfold Obligations.OpcodeTableIsTheDecoder
  exact ⟨fun _ _ => rows_of_decode, fun _ _ => push_count_of_decode, fun _ _ => shift_amount_of_decode,
    illegal_iff_no_row, legalWords, legalWords_nodup, by decide, mem_legalWords_iff⟩

/-! ## The four classes of illegal words -/

section
variable (w : Word)

theorem decodeN_illegal_iff (i : Instr) : (∃ why, decodeN w i = .illegal why) ↔ reservedN w ≠ 0 := by
  unfold decodeN
  split <;> simp_all

theorem decodeNoShift_illegal_iff (i : Instr) : (∃ why, decodeNoShift w i = .illegal why) ↔ shField w ≠ 0 := by
  unfold decodeNoShift
  split <;> simp_all

theorem decodeFn_illegal_iff : (∃ why, decodeFn w = .illegal why) ↔
    ((fnField w).toNat = 7 ∨ (fnField w).toNat = 14 ∨ (fnField w).toNat = 15) ∨
    ((fnField w).toNat ≠ 0 ∧ (fnField w).toNat ≠ 1 ∧ shField w ≠ 0) := by
  have hlt := (fnField w).isLt
  unfold decodeFn
  split
  case h_14 =>
    have hreserved : (fnField w).toNat = 7 ∨ (fnField w).toNat = 14 ∨ (fnField w).toNat = 15 := by
      simp only [imp_false] at *; omega
    simp [hreserved]
  all_goals simp [decodeNoShift_illegal_iff, *]

theorem decode_illegal_iff : (∃ why, decode w = .illegal why) ↔
    5 ≤ (opcField w).toNat ∨
    (((opcField w).toNat = 0 ∨ (opcField w).toNat = 1 ∨ (opcField w).toNat = 3) ∧ reservedN w ≠ 0) ∨
    ((opcField w).toNat = 2 ∧ reservedP w ≠ 0) ∨
    ((opcField w).toNat = 4 ∧ (reservedA w ≠ 0 ∨ ∃ why, decodeFn w = .illegal why)) := by
  unfold decode
  split
  case h_6 =>
    have hreserved : 5 ≤ (opcField w).toNat := by simp only [imp_false] at *; omega
    simp [hreserved]
  case h_1 hk | h_2 hk | h_4 hk => simp [hk, decodeN_illegal_iff]
  case h_3 hk | h_5 hk => split <;> simp_all

end

/-- A field is non-zero exactly when its number is. -/
theorem ne_zero_iff_toNat {n : Nat} (x : BitVec n) : x ≠ 0 ↔ x.toNat ≠ 0 := by
  rw [ne_eq, ← BitVec.toNat_inj]; simp

/-! ## The effect of an illegal word, and the commands without effect -/

/-- An illegal word completes with ILLEGAL raised and nothing else (30 R78, 60 R252). -/
theorem performCommand_illegal {c : Command} {why : Illegal} (s : State) (h : decode c.cmd = .illegal why) :
    performCommand c s =
      .next { s with hs := .idle, err := true, errcode := if s.err then s.errcode else .illegal } := by
  rw [performCommand, completeCommand, dispatch_illegal _ h, clearPending_next, raiseError_frame]
  rfl

/-- FINISHED without an error: INIT, PUSH and FINAL all change this state. -/
def finishedState : State := State.reset.withMode .finished

theorem exec_init_finishedState : exec .init finishedState ≠ .next finishedState := by
  rw [exec_init]
  intro h
  injection h with h
  exact absurd (congrArg State.mode h) (by decide)

/-- A state that records SEQUENCE is another one than the one without an error. -/
theorem sequence_error_ne : (.next (finishedState.withError true .sequence) : Result) ≠ .next finishedState := by
  intro h
  injection h with h
  exact absurd (congrArg State.err h) (by decide)

theorem exec_push_finishedState (n : Nat) : exec (.push n) finishedState ≠ .next finishedState := by
  rw [exec_push, execPush_of_finished rfl rfl]
  exact sequence_error_ne

theorem exec_final_finishedState : exec .final finishedState ≠ .next finishedState := by
  rw [exec_final, execFinal_of_finished rfl rfl]
  exact sequence_error_ne

/-- An ALU command changes a state whose Y is not its result. -/
theorem exec_alu_changes {i : Instr} (h : i.isAlu = true) : ∃ s : State, exec i s ≠ .next s := by
  refine ⟨State.reset.withY (aluFunction i 0 0 0 + 1), fun hs => ?_⟩
  rw [exec_alu h] at hs
  injection hs with hs
  have hy : aluFunction i 0 0 0 = aluFunction i 0 0 0 + 1 := congrArg State.y hs
  simp at hy

/-- Of all commands NOP alone changes no state (30 R78). -/
theorem eq_nop_iff_exec_changes_nothing (i : Instr) : i = .nop ↔ ∀ s : State, exec i s = .next s := by
  refine ⟨fun h => h ▸ exec_nop, fun hall => ?_⟩
  obtain h | rfl | ⟨n, rfl⟩ | rfl | hAlu := instr_kind_cases i
  · exact h
  · exact absurd (hall _) exec_init_finishedState
  · exact absurd (hall _) (exec_push_finishedState n)
  · exact absurd (hall _) exec_final_finishedState
  · obtain ⟨s, hs⟩ := exec_alu_changes hAlu
    exact absurd (hall s) hs

/-- Settles O5: the decoder's four ways to answer `illegal`, read as numbers; what completion does with such a word; a
state that each other kind of command changes. -/
theorem illegalWordsAreTheListedOnes : Obligations.IllegalWordsAreTheListedOnes := by
  unfold Obligations.IllegalWordsAreTheListedOnes
  refine ⟨illegal_iff_no_row, fun w => ?classes, fun c s why => performCommand_illegal s,
    fun i _ => eq_nop_iff_exec_changes_nothing i⟩
  case classes =>
    simp only [decode_illegal_iff, decodeFn_illegal_iff, ne_zero_iff_toNat, opcField_toNat, fnField_toNat,
      shField_toNat, reservedN_toNat, reservedP_toNat, reservedA_toNat, and_or_left]

end Sys2Proof.Machine
end

section
/-! PROOF. The pseudo-commands (30 R81): PUSHBYTES delivers its bytes, ROTL is a ROTR by the complement. -/

namespace Sys2Proof.Machine

/-! ## PUSHBYTES -/

/-- Lane k of a word is its byte k: the bytes after it are shifted out, those before it are cut off (20 R53, R54). -/
theorem laneBytes_wordOfBytes (b0 b1 b2 b3 : Byte) : laneBytes 4 (wordOfBytes b0 b1 b2 b3) = [b0, b1, b2, b3] := by
  simp only [laneBytes, List.range_succ, List.range_zero, List.nil_append, List.cons_append, List.map_cons,
    List.map_nil, List.cons.injEq, and_true]
  unfold lane wordOfBytes
  refine ⟨?_, ?_, ?_, ?_⟩
  all_goals repeat rw [BitVec.extractLsb'_append_eq_of_le (by omega)]
  · exact BitVec.extractLsb'_eq_self
  all_goals exact BitVec.extractLsb'_append_eq_right

/-- The lanes of a PUSH of n bytes are the first n bytes of its word (20 R54). -/
theorem laneBytes_wordOfBytes_take {n : Nat} (hn : n ≤ 4) (b0 b1 b2 b3 : Byte) :
    laneBytes n (wordOfBytes b0 b1 b2 b3) = [b0, b1, b2, b3].take n := by
  rw [laneBytes_eq_take _ hn, laneBytes_wordOfBytes]

theorem decode_commandOf {i : Instr} (h : i.wf = true) (a b c : Word) :
    decode (commandOf i a b c).cmd = .instr i := decode_encode h

/-- The PUSH of an assembler line delivers the lanes of its operand. -/
theorem bytes_commandOf_push {n : Nat} (hn : (Instr.push n).wf = true) (a b c : Word) :
    (commandOf (.push n) a b c).bytes = laneBytes n a := by
  rw [Command.bytes, decode_commandOf hn]; rfl

theorem isPush_commandOf_push {n : Nat} (hn : (Instr.push n).wf = true) (a b c : Word) :
    (commandOf (.push n) a b c).isPush = true := by
  rw [Command.isPush, decode_commandOf hn]

/-- A PUSH of the first n of four bytes is a PUSH and delivers these. -/
theorem push_of_wordOfBytes {n : Nat} (hn : (Instr.push n).wf = true) (b0 b1 b2 b3 : Byte) :
    (commandOf (.push n) (wordOfBytes b0 b1 b2 b3) 0 0).bytes = [b0, b1, b2, b3].take n ∧
      (commandOf (.push n) (wordOfBytes b0 b1 b2 b3) 0 0).isPush = true := by
  obtain ⟨-, hle⟩ := wf_push_iff.mp hn
  rw [bytes_commandOf_push hn, laneBytes_wordOfBytes_take hle]
  exact ⟨rfl, isPush_commandOf_push hn _ _ _⟩

/-- PUSHBYTES delivers its bytes, by PUSHes alone: four at a time, then the rest (30 R81). -/
theorem pushBytesCommands_deliver (bytes : List Byte) :
    pushedBytes (pushBytesCommands bytes) = bytes ∧ ∀ c ∈ pushBytesCommands bytes, c.isPush = true := by
  induction bytes using pushBytesCommands.induct with
  | case1 b0 b1 b2 b3 rest ih =>
    obtain ⟨hbytes, hpush⟩ := push_of_wordOfBytes (n := 4) rfl b0 b1 b2 b3
    obtain ⟨ihbytes, ihpush⟩ := ih
    refine ⟨?_, List.forall_mem_cons.mpr ⟨hpush, ihpush⟩⟩
    rw [pushBytesCommands, pushedBytes, List.flatMap_cons, hbytes, ← pushedBytes, ihbytes]
    rfl
  | case2 b0 b1 b2 => simpa [pushBytesCommands, pushedBytes] using push_of_wordOfBytes (n := 3) rfl b0 b1 b2 0
  | case3 b0 b1 => simpa [pushBytesCommands, pushedBytes] using push_of_wordOfBytes (n := 2) rfl b0 b1 0 0
  | case4 b0 => simpa [pushBytesCommands, pushedBytes] using push_of_wordOfBytes (n := 1) rfl b0 0 0 0
  | case5 => simp [pushBytesCommands, pushedBytes]

/-! ## ROTL -/

theorem rotr_complement_eq_rotateLeft (a : Word) {n : Nat} (hn : n ≤ 31) :
    rotr a ((32 - n) % 32) = a.rotateLeft n := by
  rw [rotr, BitVec.rotateRight_mod_eq_rotateRight, BitVec.rotateRight_def, BitVec.rotateLeft_def]
  obtain rfl | hpos := Nat.eq_zero_or_pos n
  · simp [BitVec.ushiftRight_eq_zero]
  · have hcomplement : (32 - n) % 32 = 32 - n := Nat.mod_eq_of_lt (by omega)
    rw [hcomplement, Nat.mod_eq_of_lt (by omega), Nat.sub_sub_self (by omega), BitVec.or_comm]

/-- An ALU command, accepted and completed: Y is its function of the operands, and the core is ready (40 R114). -/
theorem performCommand_alu {c : Command} {i : Instr} (s : State) (h : decode c.cmd = .instr i)
    (hAlu : i.isAlu = true) :
    performCommand c s = .next { s with hs := .idle, y := aluFunction i c.a c.b c.c } := by
  rw [performCommand, completeCommand, dispatch_instr _ h, exec_alu hAlu, clearPending_next]
  rfl

theorem runCommands_singleton {c : Command} {s t : State} (h : performCommand c s = .next t) :
    runCommands [c] s = .next t := by
  simp [runCommands, h]

/-- Settles O39: PUSHBYTES by its groups of four bytes; ROTL as the ROTR of the complementary amount. -/
theorem pseudoCommandsExpandRight : Obligations.PseudoCommandsExpandRight := by
  unfold Obligations.PseudoCommandsExpandRight
  refine ⟨fun _ bytes => pushBytesCommands_deliver bytes, fun _ a n s hn => ?rotl⟩
  case rotl =>
    have hwf : (Instr.rotr ((32 - n) % 32)).wf = true := wf_rotr_iff.mpr (by omega)
    rw [← rotr_complement_eq_rotateLeft a hn]
    exact runCommands_singleton (performCommand_alu s (decode_commandOf hwf a 0 0) rfl)

end Sys2Proof.Machine
end

section
/-! PROOF. The ALU commands (40 R114 to R127): each word function bit by bit, then each command by what it writes to Y.
-/

namespace Sys2Proof.Machine

/-! ## The word functions bit by bit -/

section
variable (x y z : Word) (i : Nat)

theorem getLsbD_andW : (andW x y).getLsbD i = (x.getLsbD i && y.getLsbD i) := BitVec.getLsbD_and
theorem getLsbD_orW : (orW x y).getLsbD i = (x.getLsbD i || y.getLsbD i) := BitVec.getLsbD_or
theorem getLsbD_xorW : (xorW x y).getLsbD i = (x.getLsbD i ^^ y.getLsbD i) := BitVec.getLsbD_xor

theorem getLsbD_xor3 : (xor3 x y z).getLsbD i = (x.getLsbD i ^^ y.getLsbD i ^^ z.getLsbD i) := by
  rw [xor3, getLsbD_xorW, getLsbD_xorW, Bool.xor_assoc]

/-- A shift brings bit i + n to place i, and 0 where the word has no such bit (40 R102). -/
theorem getLsbD_shr (n : Nat) : (shr x n).getLsbD i = (decide (i + n ≤ 31) && x.getLsbD (i + n)) := by
  rw [shr, BitVec.getLsbD_ushiftRight, Nat.add_comm n i]
  by_cases h : i + n ≤ 31
  · simp [h]
  · simp [h, BitVec.getLsbD_of_ge x (i + n) (by omega)]

theorem toNat_shr (n : Nat) : (shr x n).toNat = x.toNat / 2 ^ n := by
  rw [shr, BitVec.toNat_ushiftRight, Nat.shiftRight_eq_div_pow]

/-- The exact sum modulo 2^32 (40 R104). -/
theorem toNat_addMod (xs : List Word) : (addMod xs).toNat = (xs.map BitVec.toNat).sum % 2 ^ 32 :=
  BitVec.toNat_ofNat _ _

variable {i} (hi : i < 32)
include hi

/-- The exclusive or with ones is the complement (40 R103). -/
theorem getLsbD_notW : (notW x).getLsbD i = !x.getLsbD i := by
  have hnot : notW x = ~~~x := BitVec.xor_allOnes
  rw [hnot, BitVec.getLsbD_not, decide_eq_true hi, Bool.true_and]

/-- A rotation brings bit (i + n) mod 32 to place i: up to the top of the word bit i + n, then the bits from 0 on
(40 R101). -/
theorem getLsbD_rotr (n : Nat) : (rotr x n).getLsbD i = x.getLsbD ((i + n) % 32) := by
  rw [rotr, BitVec.getLsbD_rotateRight, decide_eq_true hi, Bool.true_and]
  by_cases h : i < 32 - n % 32
  · have hwrap : (i + n) % 32 = n % 32 + i := by omega
    rw [decide_eq_true h, cond_true, hwrap]
  · have hwrap : (i + n) % 32 = i - (32 - n % 32) := by omega
    rw [decide_eq_false h, cond_false, hwrap]

/-- The shape of σ0 and σ1 (40 R105, R106). -/
theorem getLsbD_xor3_rotr_shr (m n k : Nat) : (xor3 (rotr x m) (rotr x n) (shr x k)).getLsbD i =
    (x.getLsbD ((i + m) % 32) ^^ x.getLsbD ((i + n) % 32) ^^ (decide (i + k ≤ 31) && x.getLsbD (i + k))) := by
  rw [getLsbD_xor3, getLsbD_rotr x hi, getLsbD_rotr x hi, getLsbD_shr]

/-- The shape of Σ0 and Σ1 (40 R107, R108). -/
theorem getLsbD_xor3_rotr (m n k : Nat) : (xor3 (rotr x m) (rotr x n) (rotr x k)).getLsbD i =
    (x.getLsbD ((i + m) % 32) ^^ x.getLsbD ((i + n) % 32) ^^ x.getLsbD ((i + k) % 32)) := by
  rw [getLsbD_xor3, getLsbD_rotr x hi, getLsbD_rotr x hi, getLsbD_rotr x hi]

/-- Of the two terms of Ch, the bit of x keeps one (40 R109). -/
theorem getLsbD_chW : (chW x y z).getLsbD i = if x.getLsbD i then y.getLsbD i else z.getLsbD i := by
  rw [chW, getLsbD_xorW, getLsbD_andW, getLsbD_andW, getLsbD_notW x hi]
  cases x.getLsbD i with
  | false => simp
  | true => simp

end

/-- The exclusive or of the three products is 1 exactly when two or three of the bits are. -/
theorem xor_products_eq_majority : ∀ p q r : Bool,
    (p && q ^^ p && r ^^ q && r) = decide (2 ≤ p.toNat + q.toNat + r.toNat) := by decide

theorem getLsbD_majW (x y z : Word) (i : Nat) : (majW x y z).getLsbD i =
    decide (2 ≤ (x.getLsbD i).toNat + (y.getLsbD i).toNat + (z.getLsbD i).toNat) := by
  rw [majW, getLsbD_xor3, getLsbD_andW, getLsbD_andW, getLsbD_andW, xor_products_eq_majority]

/-! ## The ports that an ALU command reads -/

/-- `exec_alu`, with the written register spelled out. -/
theorem exec_alu_frame {i : Instr} (h : i.isAlu = true) (s : State) :
    exec i s = .next { s with y := aluFunction i s.opA s.opB s.opC } := exec_alu h s

/-- Settles O19: each command's function, with the ports it does not read set to 0. -/
theorem aluWritesOnlyY : Obligations.AluWritesOnlyY := by
  unfold Obligations.AluWritesOnlyY
  refine ⟨fun i h => ⟨aluFunction i, exec_alu_frame h⟩, fun i hi => ⟨fun a b => aluFunction i a b 0, ?two⟩,
    fun i hi => ⟨fun a => aluFunction i a 0 0, ?one⟩, fun sh _ i hi => ⟨fun a => aluFunction i a 0 0, ?amount⟩⟩
  all_goals simp only [List.mem_cons, List.not_mem_nil, or_false] at hi
  case two => obtain rfl | rfl | rfl | rfl := hi <;> exact exec_alu_frame rfl
  case one => obtain rfl | rfl | rfl | rfl | rfl := hi <;> exact exec_alu_frame rfl
  case amount => obtain rfl | rfl := hi <;> exact exec_alu_frame rfl

/-! ## The results -/

/-- SH is the lowest field of a format A word, so it may be or-ed in (30 R73). -/
theorem encodeA_eq_or (fn : BitVec 4) {sh : Nat} (h : sh ≤ 31) :
    encodeA fn (BitVec.ofNat 5 sh) = encodeA fn 0 ||| BitVec.ofNat 32 sh := by
  have hwide : (BitVec.ofNat 5 sh).setWidth 32 = BitVec.ofNat 32 sh := by
    apply BitVec.eq_of_toNat_eq
    rw [BitVec.toNat_setWidth, amount_toNat h, BitVec.toNat_ofNat]
  have hzero : (0 : BitVec 5).setWidth 32 = 0#32 := rfl
  simp only [encodeA, BitVec.append_def _ (BitVec.ofNat 5 sh), BitVec.append_def _ (0 : BitVec 5),
    BitVec.setWidth'_eq, hwide, hzero, BitVec.or_zero]

theorem decode_rotr_word {n : Nat} (hn : n ≤ 31) :
    decode (0x40000000 ||| BitVec.ofNat 32 n) = .instr (.rotr n) := by
  have hword : encode (.rotr n) = 0x40000000 ||| BitVec.ofNat 32 n := encodeA_eq_or 0 hn
  rw [← hword, decode_encode (wf_rotr_iff.mpr hn)]

theorem decode_shr_word {n : Nat} (hn : n ≤ 31) :
    decode (0x41000000 ||| BitVec.ofNat 32 n) = .instr (.shr n) := by
  have hword : encode (.shr n) = 0x41000000 ||| BitVec.ofNat 32 n := encodeA_eq_or 1 hn
  rw [← hword, decode_encode (wf_shr_iff.mpr hn)]

/-- Settles O20: SH or-ed into the word, then the bits of a rotation and the value of a shift. -/
theorem rotateAndShiftResults : Obligations.RotateAndShiftResults := by
  unfold Obligations.RotateAndShiftResults
  intro n s hn
  exact ⟨decode_rotr_word hn, decode_shr_word hn,
    ⟨_, exec_alu_frame rfl s, fun _ hi => getLsbD_rotr s.opA hi n⟩, ⟨_, exec_alu_frame rfl s, toNat_shr s.opA n⟩⟩

/-- Settles O21: each word is its command's encoding; each result bit by bit. -/
theorem logicResults : Obligations.LogicResults := by
  unfold Obligations.LogicResults
  exact ⟨decode_encode (i := .and) rfl, decode_encode (i := .or) rfl, decode_encode (i := .xor) rfl,
    decode_encode (i := .not) rfl, fun s =>
    ⟨⟨_, exec_alu_frame rfl s, fun i _ => getLsbD_andW _ _ i⟩,
      ⟨_, exec_alu_frame rfl s, fun i _ => getLsbD_orW _ _ i⟩,
      ⟨_, exec_alu_frame rfl s, fun i _ => getLsbD_xorW _ _ i⟩,
      ⟨_, exec_alu_frame rfl s, fun _ hi => getLsbD_notW _ hi⟩⟩⟩

/-- Settles O22: `addMod` of the two operands. -/
theorem addResult : Obligations.AddResult := by
  unfold Obligations.AddResult
  exact ⟨decode_encode (i := .add) rfl, fun s => ⟨_, exec_alu_frame rfl s, toNat_addMod [s.opA, s.opB]⟩⟩

/-- Settles O23: each function is the exclusive or of rotations and a shift by its amounts, or of three rotations. -/
theorem sigmaResults : Obligations.SigmaResults := by
  unfold Obligations.SigmaResults
  exact ⟨decode_encode (i := .ssig0) rfl, decode_encode (i := .ssig1) rfl, decode_encode (i := .bsig0) rfl,
    decode_encode (i := .bsig1) rfl, fun s =>
    ⟨⟨_, exec_alu_frame rfl s, fun _ hi => getLsbD_xor3_rotr_shr s.opA hi 7 18 3⟩,
      ⟨_, exec_alu_frame rfl s, fun _ hi => getLsbD_xor3_rotr_shr s.opA hi 17 19 10⟩,
      ⟨_, exec_alu_frame rfl s, fun _ hi => getLsbD_xor3_rotr s.opA hi 2 13 22⟩,
      ⟨_, exec_alu_frame rfl s, fun _ hi => getLsbD_xor3_rotr s.opA hi 6 11 25⟩⟩⟩

/-- Settles O24: each bit of Ch is chosen by A's bit, each bit of Maj is the majority. -/
theorem chooseAndMajorityResults : Obligations.ChooseAndMajorityResults := by
  unfold Obligations.ChooseAndMajorityResults
  exact ⟨decode_encode (i := .ch) rfl, decode_encode (i := .maj) rfl, fun s =>
    ⟨⟨_, exec_alu_frame rfl s, fun _ hi => getLsbD_chW _ _ _ hi⟩,
      ⟨_, exec_alu_frame rfl s, fun i _ => getLsbD_majW _ _ _ i⟩⟩⟩

end Sys2Proof.Machine
end

section
/-! PROOF. PUSH and FINAL (41 R150, R151): what absorbing bytes leaves in BUF, H and the engine, within a block and
across its end, and the ways either command only records an error. -/

namespace Sys2Proof.Machine

/-! ## BUF after a PUSH's bytes -/

/-- BC + 1 where the block is not yet full: the 6-bit register does not wrap (10 R25). -/
theorem absorbByte_bc_toNat_inside {s : State} (b : Byte) (h : s.bc.toNat + 1 ≠ 64) :
    (s.absorbByte b).bc.toNat = s.bc.toNat + 1 := by
  have hlt := s.bc.isLt
  rw [absorbByte_bc, BitVec.toNat_add]
  simp only [BitVec.reduceToNat]; omega

/-- Place p of BUF receives the byte at its distance from BC, counted cyclically, if there is one (41 R150). -/
theorem absorb_buf_getElem (bs : List Byte) (s : State) (hlen : bs.length ≤ 64) (p : Nat) (hp : p < 64) :
    (s.absorb bs).buf[p] = bs.getD ((p + 64 - s.bc.toNat) % 64) s.buf[p] := by
  induction bs generalizing s with
  | nil => simp
  | cons b bs ih =>
    rw [List.length_cons] at hlen
    have hlt := s.bc.isLt
    have hbc : (s.absorbByte b).bc.toNat = (s.bc.toNat + 1) % 64 := absorb_bc_toNat [b] s
    have hbuf : (s.absorbByte b).buf[p] = if s.bc.toNat = p then b else s.buf[p] := by
      simp only [absorbByte_buf, setByte_getElem]
    rw [absorb_cons, ih _ (by omega), hbuf, hbc]
    by_cases heq : s.bc.toNat = p
    · have hfar : (p + 64 - (s.bc.toNat + 1) % 64) % 64 = 63 := by omega
      have hhere : (p + 64 - s.bc.toNat) % 64 = 0 := by omega
      rw [hfar, hhere, if_pos heq, List.getD_eq_default _ _ (by omega), List.getD_cons_zero]
    · have hnext : (p + 64 - s.bc.toNat) % 64 = (p + 64 - (s.bc.toNat + 1) % 64) % 64 + 1 := by omega
      rw [hnext, if_neg heq, List.getD_cons_succ]

/-- Place p of BUF after the lanes of a word (20 R54). -/
theorem absorb_laneBytes_buf {n : Nat} (a : Word) (s : State) (hn : n ≤ 64) {p : Nat} (hp : p < 64) :
    (s.absorb (laneBytes n a)).buf[p] =
      if (p + 64 - s.bc.toNat) % 64 < n then lane a ((p + 64 - s.bc.toNat) % 64) else s.buf[p] := by
  rw [absorb_buf_getElem _ s (by rwa [laneBytes_length]) p hp]
  split_ifs with h <;> simp [laneBytes, h]

/-- Lanes that end within the block or at its end stand from BC on. -/
theorem absorb_laneBytes_buf_within {n : Nat} (a : Word) (s : State) (hend : s.bc.toNat + n ≤ 64) {p : Nat}
    (hp : p < 64) :
    (s.absorb (laneBytes n a)).buf[p] =
      if s.bc.toNat ≤ p ∧ p < s.bc.toNat + n then lane a (p - s.bc.toNat) else s.buf[p] := by
  rw [absorb_laneBytes_buf a s (by omega) hp]
  by_cases hplace : s.bc.toNat ≤ p
  · have hdist : (p + 64 - s.bc.toNat) % 64 = p - s.bc.toNat := by omega
    rw [hdist]
    exact if_congr (by omega) rfl rfl
  · rw [if_neg (by omega), if_neg (by omega)]

/-- Lanes that go on past the end of the block stand at BUF[0..] from there on (41 R150). -/
theorem absorb_laneBytes_buf_across {n : Nat} (a : Word) (s : State) (hn : n ≤ 64) (hend : 64 ≤ s.bc.toNat + n)
    {p : Nat} (hp : p < 64) :
    (s.absorb (laneBytes n a)).buf[p] =
      if p < s.bc.toNat + n - 64 then lane a (p + 64 - s.bc.toNat)
      else (s.absorb (laneBytes (64 - s.bc.toNat) a)).buf[p] := by
  have hlt := s.bc.isLt
  rw [absorb_laneBytes_buf a s hn hp, absorb_laneBytes_buf a s (by omega) hp]
  by_cases hplace : s.bc.toNat ≤ p
  · rw [if_pos (by omega), if_neg (by omega), if_pos (by omega)]
  · have hdist : (p + 64 - s.bc.toNat) % 64 = p + 64 - s.bc.toNat := by omega
    have hbeyond : ¬ p + 64 - s.bc.toNat < 64 - s.bc.toNat := by omega
    rw [hdist, if_neg hbeyond]
    exact if_congr (by omega) rfl rfl

/-! ## Bytes that stay inside the block -/

/-- Bytes that do not fill the block write BUF, BC and L only (41 R150). -/
theorem absorb_frame_inside (bs : List Byte) (s : State) (h : s.bc.toNat + bs.length < 64) :
    s.absorb bs = { s with buf := (s.absorb bs).buf, bc := (s.absorb bs).bc, l := (s.absorb bs).l } := by
  induction bs generalizing s with
  | nil => rfl
  | cons b bs ih =>
    rw [List.length_cons] at h
    have hin : s.bc.toNat + 1 ≠ 64 := by omega
    rw [absorb_cons, ih _ (by rw [absorbByte_bc_toNat_inside b hin]; omega), absorbByte_inside b hin]

/-- Settles O14: the lane bytes stay inside the block, so each has a place of its own from BC on. -/
theorem pushInsideTheBlock : Obligations.PushInsideTheBlock := by
  unfold Obligations.PushInsideTheBlock
  intro n s _ hn herr hmode hfits hin
  have hlen : (laneBytes n s.opA).length = n := laneBytes_length n s.opA
  refine ⟨_, (exec_push n s).trans (execPush_of_ok herr hmode hfits),
    absorb_frame_inside _ s (by omega), ?bc, ?l, fun _ hp => absorb_laneBytes_buf_within s.opA s (by omega) hp⟩
  case bc => rw [absorb_bc_toNat, hlen]; omega
  case l => rw [absorb_l_toNat _ s (by omega), hlen]

/-! ## Bytes that fill the block -/

/-- The block is full after the first 64 - BC bytes; H is then its block function, and the bytes after them fill no
second one (41 R150, 20 R58). -/
theorem absorb_h_full (bs : List Byte) (s : State) (hfull : 64 ≤ s.bc.toNat + bs.length)
    (hone : s.bc.toNat + bs.length < 128) :
    (s.absorb bs).h = blockFunction s.h (s.absorb (bs.take (64 - s.bc.toNat))).buf := by
  have hlt := s.bc.isLt
  induction bs generalizing s with
  | nil => rw [List.length_nil] at hfull; omega
  | cons b bs ih =>
    rw [List.length_cons] at hfull hone
    by_cases hlast : s.bc.toNat + 1 = 64
    · have hbc : (s.absorbByte b).bc.toNat = 0 := by rw [absorbByte_full b hlast, State.withBc_bc]; rfl
      have hrest := absorb_frame_inside bs (s.absorbByte b) (by omega)
      rw [absorb_cons, hrest, absorbByte_h_full b hlast, show 64 - s.bc.toNat = 1 by omega, List.take_succ_cons,
        List.take_zero, absorb_cons, absorb_nil, absorbByte_buf]
    · have hbc := absorbByte_bc_toNat_inside b hlast
      rw [absorb_cons, ih _ (by omega) (by omega) (by omega), absorbByte_h_inside b hlast, hbc,
        show 64 - s.bc.toNat = 64 - (s.bc.toNat + 1) + 1 by omega, List.take_succ_cons, absorb_cons]

/-- Whatever the phase was, the engine is IDLE after a block (43 R196). -/
theorem absorb_phase_full (bs : List Byte) (s : State) (hfull : 64 ≤ s.bc.toNat + bs.length) :
    (s.absorb bs).phase = .idle := by
  have hlt := s.bc.isLt
  induction bs generalizing s with
  | nil => rw [List.length_nil] at hfull; omega
  | cons b bs ih =>
    rw [List.length_cons] at hfull
    rw [absorb_cons]
    by_cases hlast : s.bc.toNat + 1 = 64
    · exact absorb_phase bs _ (by rw [absorbByte_full b hlast, State.withBc_phase, processBlock_phase])
    · have hbc := absorbByte_bc_toNat_inside b hlast
      exact ih _ (by omega) (by omega)

/-- The first k lanes of a PUSH (20 R54). -/
theorem take_laneBytes {k n : Nat} (a : Word) (hk : k ≤ n) (hn : n ≤ 4) :
    (laneBytes n a).take k = laneBytes k a := by
  rw [laneBytes_eq_take a hn, List.take_take, Nat.min_eq_left hk, ← laneBytes_eq_take a (by omega)]

/-- Settles O15: the full block is BUF after the first 64 - BC of the lane bytes. -/
theorem pushFillingTheBlock : Obligations.PushFillingTheBlock := by
  unfold Obligations.PushFillingTheBlock
  intro n s _ hn herr hmode hfits hfull
  have hbc := s.bc.isLt
  have hlen : (laneBytes n s.opA).length = n := laneBytes_length n s.opA
  refine ⟨_, (s.absorb (laneBytes (64 - s.bc.toNat) s.opA)).buf,
    (exec_push n s).trans (execPush_of_ok herr hmode hfits), fun p hp => ?full, ?h, ?bc, ?l,
    fun _ hp => absorb_laneBytes_buf_across s.opA s (by omega) hfull hp, ?frame⟩
  case full =>
    rw [absorb_laneBytes_buf_within s.opA s (by omega) hp]
    exact if_congr (by omega) rfl rfl
  case h => rw [absorb_h_full _ s (by omega) (by omega), take_laneBytes s.opA (by omega) hn]
  case bc => rw [absorb_bc_toNat, hlen]; omega
  case l => rw [absorb_l_toNat _ s (by omega), hlen]
  case frame =>
    have hphase := absorb_phase_full (laneBytes n s.opA) s (by omega)
    ext1 <;> simp [hphase]

/-! ## FINAL -/

/-- Settles O17: the tail by the number of buffered bytes, and H after its one or two blocks. -/
theorem finalFinishesTheMessage : Obligations.FinalFinishesTheMessage := by
  unfold Obligations.FinalFinishesTheMessage
  intro s herr hmode bytes
  have hbc := s.bc.isLt
  have hbytes : bytes = tail s.buffered s.l := by
    rw [tail, buffered_length]; rfl
  refine ⟨_, (exec_final s).trans (execFinal_of_ok herr hmode), ?h, ?len, ?frame⟩
  case h => rw [hbytes, finish_h]
  case len => rw [hbytes, tail_length _ _ (by rw [buffered_length]; omega), buffered_length]
  case frame => ext1 <;> simp

/-! ## Commands that only record an error -/

/-- Settles O13: the three refusals of PUSH, in the order of its checks. -/
theorem pushThatAbsorbsNothing : Obligations.PushThatAbsorbsNothing := by
  unfold Obligations.PushThatAbsorbsNothing
  exact fun n s _ _ => ⟨fun herr => execPush_of_err herr, fun herr hmode => execPush_of_finished herr hmode,
    fun herr hmode hlong => execPush_of_long herr hmode hlong⟩

/-- Settles O16: the two refusals of FINAL. -/
theorem finalThatFinishesNothing : Obligations.FinalThatFinishesNothing := by
  unfold Obligations.FinalThatFinishesNothing
  exact ⟨fun _ herr => execFinal_of_err herr, fun _ herr hmode => execFinal_of_finished herr hmode⟩

end Sys2Proof.Machine
end

section
/-! PROOF. Padding: the length of Pad (41 R142), and Pad of a byte message as bytes, whose blocks are the message's full
blocks and the blocks of Tail (41 R144, R146). -/

namespace Sys2Proof.Machine

/-! ## The padded length -/

@[simp] theorem pad_length (m : List Bool) : (pad m).length = m.length + 1 + padZeros m.length + 64 := by
  simp [pad, bits64be]; omega

/-- Settles O30: arithmetic on the two branches of the number of zero bits. -/
theorem padLengthAndBlocks : Obligations.PadLengthAndBlocks := by
  unfold Obligations.PadLengthAndBlocks
  intro m _ M q r
  rw [pad_length]
  refine ⟨rfl, ?_⟩
  rw [padZeros]
  split
  · omega
  · omega

/-! ## Bytes as bits -/

@[simp] theorem messageBits_nil : messageBits [] = [] := rfl

@[simp] theorem messageBits_cons (b : Byte) (bs : List Byte) :
    messageBits (b :: bs) = byteBits b ++ messageBits bs := rfl

@[simp] theorem messageBits_append (bs cs : List Byte) : messageBits (bs ++ cs) = messageBits bs ++ messageBits cs :=
  List.flatMap_append

@[simp] theorem messageBits_length (bs : List Byte) : (messageBits bs).length = 8 * bs.length := by
  simp [messageBits, byteBits, List.length_flatMap, Nat.mul_comm]

theorem messageBits_zeros (k : Nat) : messageBits (zeros k) = List.replicate (8 * k) false := by
  induction k with
  | zero => rfl
  | succ k ih =>
    have hbyte : byteBits 0 = List.replicate 8 false := rfl
    rw [zeros, List.replicate_succ, messageBits_cons, hbyte, ← zeros, ih, List.replicate_append_replicate]
    congr 1; omega

/-- Byte k of the length field holds its bits 8k to 8k + 7 from the top (20 R52, R55). -/
theorem byteBits_extract (l : BitVec 64) {k : Nat} (hk : k < 8) :
    byteBits (l.extractLsb' (56 - 8 * k) 8) = (List.range 8).map fun i => l.getMsbD (8 * k + i) := by
  apply List.map_congr_left
  intro i hi
  have hi := List.mem_range.mp hi
  have hpos : 56 - 8 * k + (8 - 1 - i) = 64 - 1 - (8 * k + i) := by omega
  have hin : 8 - 1 - i < 8 := by omega
  have hwide : 8 * k + i < 64 := by omega
  simp only [BitVec.getMsbD, BitVec.getLsbD_extractLsb', hpos, hi, hin, hwide, decide_true, Bool.true_and]

theorem messageBits_be64 (n : Nat) : messageBits (be64 (BitVec.ofNat 64 n)) = bits64be n := by
  have hplaces : List.range 64 = (List.range 8).flatMap fun k => (List.range 8).map fun i => 8 * k + i := by decide
  rw [messageBits, be64, List.flatMap_map, bits64be, hplaces, List.map_flatMap]
  apply List.flatMap_congr
  intro k hk
  rw [byteBits_extract _ (List.mem_range.mp hk), List.map_map]
  rfl

/-- A byte is its eight bits put together, the first most significant (20 R52). -/
theorem append_ofBool_getMsbD : ∀ b : Byte,
    (BitVec.ofBool (b.getMsbD 0) ++ BitVec.ofBool (b.getMsbD 1) ++ BitVec.ofBool (b.getMsbD 2)
      ++ BitVec.ofBool (b.getMsbD 3) ++ BitVec.ofBool (b.getMsbD 4) ++ BitVec.ofBool (b.getMsbD 5)
      ++ BitVec.ofBool (b.getMsbD 6) ++ BitVec.ofBool (b.getMsbD 7) : BitVec 8) = b := by decide

theorem bytesOfBits_byteBits_append (b : Byte) (bits : List Bool) :
    bytesOfBits (byteBits b ++ bits) = b :: bytesOfBits bits :=
  congrArg (· :: bytesOfBits bits) (append_ofBool_getMsbD b)

@[simp] theorem bytesOfBits_messageBits (bs : List Byte) : bytesOfBits (messageBits bs) = bs := by
  induction bs with
  | nil => rfl
  | cons b bs ih => rw [messageBits_cons, bytesOfBits_byteBits_append, ih]

/-! ## Pad of a byte message -/

/-- After the 1 bit and the 7 bits that complete its byte come whole zero bytes, as many as Tail has (41 R141, R143). -/
theorem padZeros_bytes (n : Nat) : padZeros (8 * n) = 7 + 8 * tailZeros (n % 64) := by
  by_cases h : n % 64 ≤ 55
  · rw [padZeros, tailZeros, if_pos h, if_pos (by omega)]; omega
  · rw [padZeros, tailZeros, if_neg h, if_neg (by omega)]; omega

/-- Pad of a byte message is a whole number of bytes: the message, 0x80, zero bytes and the length (41 R140, R143). -/
theorem pad_messageBits (m : List Byte) :
    pad (messageBits m) =
      messageBits (m ++ [0x80] ++ zeros (tailZeros (m.length % 64)) ++ be64 (BitVec.ofNat 64 (8 * m.length))) := by
  have hbyte : messageBits [0x80] = [true] ++ List.replicate 7 false := rfl
  simp only [pad, messageBits_append, messageBits_length, hbyte, messageBits_zeros, messageBits_be64, padZeros_bytes,
    List.append_assoc, ← List.replicate_append_replicate]

/-! ## Blocks of bytes -/

@[simp] theorem blocksOf_length (bytes : List Byte) : (blocksOf bytes).length = bytes.length / 64 := by simp [blocksOf]

theorem blockAt_getElem (bytes : List Byte) (off : Nat) {i : Nat} (hi : i < 64) :
    (blockAt bytes off)[i] = bytes.getD (off + i) 0 := by
  rw [blockAt, Vector.getElem_ofFn]

theorem blockAt_append_left (xs ys : List Byte) {off : Nat} (h : off + 64 ≤ xs.length) :
    blockAt (xs ++ ys) off = blockAt xs off := by
  ext1 i hi
  rw [blockAt_getElem _ _ hi, blockAt_getElem _ _ hi, List.getD_append _ _ _ _ (by omega)]

theorem blockAt_append_right (xs ys : List Byte) (off : Nat) :
    blockAt (xs ++ ys) (xs.length + off) = blockAt ys off := by
  ext1 i hi
  rw [blockAt_getElem _ _ hi, blockAt_getElem _ _ hi, List.getD_append_right _ _ _ _ (by omega), Nat.add_assoc,
    Nat.add_sub_cancel_left]

/-- Whole blocks come first, whatever follows them. -/
theorem blocksOf_append {xs : List Byte} (ys : List Byte) {q : Nat} (hxs : xs.length = 64 * q) :
    blocksOf (xs ++ ys) = blocksOf xs ++ blocksOf ys := by
  have hcount : (xs ++ ys).length / 64 = q + ys.length / 64 := by rw [List.length_append, hxs]; omega
  have hq : xs.length / 64 = q := by omega
  have hleft : ∀ i ∈ List.range q, blockAt (xs ++ ys) (64 * i) = blockAt xs (64 * i) := by
    intro i hi
    have hi := List.mem_range.mp hi
    exact blockAt_append_left xs ys (by omega)
  have hright (i : Nat) : blockAt (xs ++ ys) (64 * (q + i)) = blockAt ys (64 * i) := by
    rw [Nat.mul_add, ← hxs, blockAt_append_right]
  simp only [blocksOf, hcount, hq, List.range_add, List.map_append, List.map_map, Function.comp_def, hright,
    List.map_congr_left hleft]

/-- Bytes that do not fill a block make none. -/
theorem blocksOf_take_full (m : List Byte) : blocksOf (m.take (64 * (m.length / 64))) = blocksOf m := by
  have hrest : blocksOf (m.drop (64 * (m.length / 64))) = [] := by
    apply List.eq_nil_of_length_eq_zero
    rw [blocksOf_length, List.length_drop]; omega
  conv_rhs => rw [← List.take_append_drop (64 * (m.length / 64)) m]
  rw [blocksOf_append _ (List.length_take_of_le (Nat.mul_div_le _ _)), hrest, List.append_nil]

/-- The bytes beyond the full blocks, fewer than 64. -/
theorem length_drop_full (m : List Byte) : (m.drop (64 * (m.length / 64))).length = m.length % 64 := by
  rw [List.length_drop]; omega

/-- Pad's blocks are the full blocks of the message and the blocks of Tail, for every length (41 R144). -/
theorem paddedBlocks_eq_full_append_tail (m : List Byte) :
    paddedBlocks m =
      blocksOf m ++ blocksOf (tail (m.drop (64 * (m.length / 64))) (BitVec.ofNat 64 (8 * m.length))) := by
  have hbytes : bytesOfBits (pad (messageBits m)) =
      m.take (64 * (m.length / 64)) ++ tail (m.drop (64 * (m.length / 64))) (BitVec.ofNat 64 (8 * m.length)) := by
    rw [pad_messageBits, bytesOfBits_messageBits, tail, length_drop_full]
    simp only [← List.append_assoc, List.take_append_drop]
  rw [paddedBlocks, hbytes, blocksOf_append _ (List.length_take_of_le (Nat.mul_div_le _ _)), blocksOf_take_full]

/-- Settles O32: Pad's bytes cut after the message's last full block. -/
theorem tailAgreesWithPad : Obligations.TailAgreesWithPad := by
  unfold Obligations.TailAgreesWithPad
  exact fun m _ => paddedBlocks_eq_full_append_tail m

/-- Settles O31: the full blocks and the one or two of Tail. -/
theorem byteMessageBlockCount : Obligations.ByteMessageBlockCount := by
  unfold Obligations.ByteMessageBlockCount
  intro m
  have hrest := length_drop_full m
  rw [paddedBlocks_eq_full_append_tail, List.length_append, blocksOf_length, blocksOf_length,
    tail_length _ _ (by omega), hrest]
  constructor <;> intro h
  · rw [if_pos h]
  · rw [if_neg (by omega)]

end Sys2Proof.Machine
end

section
/-! PROOF. The schedule (42 R170, R172): Expand's words by place, and the index, the phase and the registers at each
step of the engine's sequence (43 R193, R196). -/

namespace Sys2Proof.Machine

/-! ## Expand -/

@[simp] theorem addMod_nil : addMod [] = 0 := rfl

@[simp] theorem addMod_cons (x : Word) (xs : List Word) : addMod (x :: xs) = x + addMod xs := by
  apply BitVec.eq_of_toNat_eq
  rw [BitVec.toNat_add, toNat_addMod, toNat_addMod, List.map_cons, List.sum_cons, Nat.add_mod_mod]

@[simp] theorem expandMore_length (n : Nat) (ws : List Word) : (expandMore n ws).length = n + ws.length := by
  induction n generalizing ws with
  | zero => simp [expandMore]
  | succ n ih => rw [expandMore, ih, List.length_cons]; omega

/-- The words there were stand after the n new ones, unchanged. -/
theorem expandMore_getD_add (n i : Nat) (ws : List Word) : (expandMore n ws).getD (n + i) 0 = ws.getD i 0 := by
  induction n generalizing ws i with
  | zero => rw [expandMore, Nat.zero_add]
  | succ n ih => rw [expandMore, Nat.add_assoc, ih, Nat.add_comm 1 i, List.getD_cons_succ]

/-- Each new word is the recurrence's of the words behind it, at the end of the expansion as when it was made
(42 R170). -/
theorem expandMore_getD_of_lt {n k : Nat} (ws : List Word) (hk : k < n) :
    (expandMore n ws).getD k 0 =
      addMod [ssig0 ((expandMore n ws).getD (k + 15) 0), (expandMore n ws).getD (k + 7) 0,
        ssig1 ((expandMore n ws).getD (k + 2) 0), (expandMore n ws).getD (k + 16) 0] := by
  induction n generalizing ws with
  | zero => exact absurd hk (Nat.not_lt_zero k)
  | succ n ih =>
    rw [expandMore]
    obtain hlt | rfl := Nat.lt_succ_iff_lt_or_eq.mp hk
    · exact ih _ hlt
    · -- the word made first: k newer ones stand before it
      have hfirst := expandMore_getD_add k 0
      rw [Nat.add_zero] at hfirst
      simp only [hfirst, expandMore_getD_add, List.getD_cons_zero, List.getD_cons_succ]

theorem expand_length (m : Vector Word 16) : (expand m).length = 64 := by simp [expand]

/-- W[t] stands 63 - t places behind the newest word. -/
theorem expand_getD (m : Vector Word 16) {t : Nat} (ht : t < 64) :
    (expand m).getD t 0 = (expandMore 48 m.toList.reverse).getD (63 - t) 0 := by
  have hlen : (expandMore 48 m.toList.reverse).length = 64 := by simp
  rw [expand, List.getD_reverse _ (by omega), hlen]

theorem expand_getD_of_lt (m : Vector Word 16) {t : Nat} (ht : t < 16) : (expand m).getD t 0 = m[t] := by
  have hplace : 63 - t = 48 + (15 - t) := by omega
  rw [expand_getD m (by omega), hplace, expandMore_getD_add, List.getD_reverse _ (by simp; omega)]
  have hback : m.toList.length - 1 - (15 - t) = t := by simp; omega
  rw [hback, List.getD_eq_getElem _ _ (by simpa using ht), Vector.getElem_toList]

/-- The recurrence of 42 R170. -/
theorem expand_getD_recurrence (m : Vector Word 16) {t : Nat} (h16 : 16 ≤ t) (h64 : t < 64) :
    (expand m).getD t 0 =
      addMod [ssig0 ((expand m).getD (t - 15) 0), (expand m).getD (t - 7) 0, ssig1 ((expand m).getD (t - 2) 0),
        (expand m).getD (t - 16) 0] := by
  have behind {j : Nat} (hj : j ≤ 16) : (expand m).getD (t - j) 0 =
      (expandMore 48 m.toList.reverse).getD (63 - t + j) 0 := by
    rw [expand_getD m (by omega)]; congr 1; omega
  rw [expand_getD m h64, expandMore_getD_of_lt _ (by omega), behind (by decide), behind (by decide),
    behind (by decide), behind (by decide)]

/-- Settles O26: the words `expandMore` keeps, read from the oldest on. -/
theorem expandFollowsTheRecurrence : Obligations.ExpandFollowsTheRecurrence := by
  unfold Obligations.ExpandFollowsTheRecurrence
  refine fun m => ⟨expand_length m, fun t ht => expand_getD_of_lt m ht, fun t h16 h64 => ?_⟩
  rw [expand_getD_recurrence m h16 h64]
  simp only [addMod_cons, addMod_nil, add_zero, add_assoc]

/-! ## The engine's sequence -/

theorem roundSteps_succ (n : Nat) (s : State) : State.roundSteps (n + 1) s = (State.roundSteps n s).roundStep := by
  induction n generalizing s with
  | zero => rfl
  | succ n ih => rw [State.roundSteps, ih, ← State.roundSteps]

/-- The index counts the rounds, modulo 64 (43 R196). -/
theorem roundSteps_t (n : Nat) (s : State) : (State.roundSteps n s).t = s.t + BitVec.ofNat 6 n := by
  induction n with
  | zero => rw [State.roundSteps, BitVec.add_zero]
  | succ n ih => rw [roundSteps_succ, State.roundStep, State.withIndex_t, ih, BitVec.ofNat_add, BitVec.add_assoc]; rfl

/-- The index counts the schedule words, modulo 64 (43 R196). -/
theorem expandSteps_t (n : Nat) (s : State) : (State.expandSteps n s).t = s.t + BitVec.ofNat 6 n := by
  induction n generalizing s with
  | zero => rw [State.expandSteps, BitVec.add_zero]
  | succ n ih =>
    rw [State.expandSteps, ih, State.expandStep, State.withIndex_t, Nat.add_comm, BitVec.ofNat_add, BitVec.add_assoc]
    rfl

/-- Before round n the index is n. -/
theorem roundSteps_beginRounds_t {n : Nat} (s : State) (hn : n < 64) :
    (State.roundSteps n s.beginRounds).t.toNat = n := by
  rw [roundSteps_t, State.beginRounds, State.withPhase_t, State.withIndex_t, zero_add, BitVec.toNat_ofNat,
    Nat.mod_eq_of_lt hn]

/-- Before schedule step n the index is 16 + n. -/
theorem expandSteps_beginExpand_t {n : Nat} (b : Block) (s : State) (hn : n < 48) :
    (State.expandSteps n (s.beginExpand b)).t.toNat = 16 + n := by
  rw [expandSteps_t, State.beginExpand, State.withPhase_t, State.withIndex_t, BitVec.toNat_add, BitVec.toNat_ofNat]
  simp only [BitVec.reduceToNat]
  omega

/-- Round n uses `K[n]` and `W[n]` (43 R193). -/
theorem roundSteps_succ_work {n : Nat} (s : State) (hn : n < 64) :
    (State.roundSteps (n + 1) s.beginRounds).work =
      roundUpdate (State.roundSteps n s.beginRounds).work kRom[n] s.w[n] := by
  have hw : s.beginRounds.w = s.w := rfl
  simp only [roundSteps_succ, State.roundStep, State.withIndex_work, State.withWorking_work, kAt, wordAt,
    roundSteps_beginRounds_t s hn, roundSteps_w, hw]

/-- W after the schedule steps, by place (42 R170, R172). -/
theorem expandSteps_beginExpand_w_getElem {t : Nat} (b : Block) (s : State) (ht : t < 64) :
    (State.expandSteps 48 (s.beginExpand b)).w[t] = (expand (blockWords b)).getD t 0 := by
  rw [← expandSteps_beginExpand_w b s, List.getD_eq_getElem _ _ (by simpa using ht), Vector.getElem_toList]

/-- Settles O29: the index counts the steps, which write W, a..h and the index only. -/
theorem engineSequenceFollowsT : Obligations.EngineSequenceFollowsT := by
  unfold Obligations.EngineSequenceFollowsT
  intro b s
  refine ⟨fun t ht => expandSteps_beginExpand_w_getElem b s ht, fun n hn => ?_, fun n hn => roundSteps_succ_work s hn,
    fun n hn => ?_⟩
  · refine ⟨roundSteps_beginRounds_t s hn, ?_, ?_, ?_⟩ <;> simp [State.beginRounds]
  · refine ⟨expandSteps_beginExpand_t b s hn, ?_, ?_⟩ <;> simp [State.beginExpand]

end Sys2Proof.Machine
end

section
/-! PROOF. The compressor (43 R190, R191, R194): the round as sums of words, in parallel or in the listed order, and
the engine's sequence as the block function with its frame. -/

namespace Sys2Proof.Machine

/-- 43 R190's T1, as a sum of words. -/
theorem roundT1_eq_sum (v : Working) (k w : Word) :
    roundT1 v k w = v.h + bsig1 v.e + chW v.e v.f v.g + k + w := by
  simp only [roundT1, addMod_cons, addMod_nil, add_zero, add_assoc]

/-- 43 R190's T2, as a sum of words. -/
theorem roundT2_eq_sum (v : Working) : roundT2 v = bsig0 v.a + majW v.a v.b v.c := by
  simp only [roundT2, addMod_cons, addMod_nil, add_zero]

/-- 43 R191's parallel assignment: a and e take the sums, the others move one place down. -/
theorem roundUpdate_eq_parallel (v : Working) (k w : Word) :
    roundUpdate v k w =
      ⟨roundT1 v k w + roundT2 v, v.a, v.b, v.c, v.d + roundT1 v k w, v.e, v.f, v.g⟩ := by
  simp only [roundUpdate, addMod_cons, addMod_nil, add_zero]

/-- Settles O27: in the listed order each register is read before it is written, so the assignments one after another
are the parallel assignment by computation. -/
theorem roundUpdatesAreSimultaneous : Obligations.RoundUpdatesAreSimultaneous := by
  unfold Obligations.RoundUpdatesAreSimultaneous
  intro v k w
  rw [← roundT1_eq_sum, ← roundT2_eq_sum]
  have hparallel := roundUpdate_eq_parallel v k w
  exact ⟨hparallel, hparallel.symm⟩

/-- Settles O28: H by the refinement of Compress of Expand, the rest by the frame of the sequence. -/
theorem engineComputesTheBlockFunction : Obligations.EngineComputesTheBlockFunction := by
  unfold Obligations.EngineComputesTheBlockFunction
  intro b s
  have hframe := processBlock_frame b s
  rw [processBlock_h] at hframe
  refine ⟨processBlock_h b s, ?_⟩
  rwa [processBlock_w, processBlock_work, processBlock_t]

end Sys2Proof.Machine
end

section
/-! PROOF. Commands one after another, without their timing (20 R62): what one accepted command does, and how a run of
commands is made of it. -/

namespace Sys2Proof.Machine

/-! ## One command -/

/-- An accepted command of a legal word: its effect with the operands sampled, then BUSY falls (44 R220, R229). -/
theorem performCommand_instr {c : Command} {i : Instr} {s t : State} (h : decode c.cmd = .instr i)
    (ht : exec i (s.withHs (.running c 0)) = .next t) : performCommand c s = .next (t.withHs .idle) := by
  rw [performCommand, completeCommand, dispatch_instr _ h, ht, clearPending_next]

/-! ## Runs -/

theorem runCommands_cons_of_next {c : Command} {s t : State} (cs : List Command) (h : performCommand c s = .next t) :
    runCommands (c :: cs) s = runCommands cs t := by
  simp only [runCommands, h]

theorem runCommands_append_of_next {cs : List Command} {s t : State} (ds : List Command)
    (h : runCommands cs s = .next t) : runCommands (cs ++ ds) s = runCommands ds t := by
  induction cs generalizing s with
  | nil =>
    injection h with h
    rw [List.nil_append, h]
  | cons c cs ih =>
    obtain ⟨u, hu⟩ := completeCommand_next c (s.withHs (.running c 0))
    rw [List.cons_append, runCommands_cons_of_next _ hu]
    exact ih ((runCommands_cons_of_next cs hu).symm.trans h)

/-- What every command of a run keeps holds after the run, which always completes (44 R231). -/
theorem runCommands_keeps {P : State → Prop} {cs : List Command} {s : State}
    (hkeep : ∀ c ∈ cs, ∀ s t : State, P s → performCommand c s = .next t → P t) (h : P s) :
    ∃ t, runCommands cs s = .next t ∧ P t := by
  induction cs generalizing s with
  | nil => exact ⟨s, rfl, h⟩
  | cons c cs ih =>
    obtain ⟨u, hu⟩ := completeCommand_next c (s.withHs (.running c 0))
    rw [runCommands_cons_of_next cs hu]
    rw [List.forall_mem_cons] at hkeep
    obtain ⟨hfirst, hrest⟩ := hkeep
    exact ih hrest (hfirst s _ h hu)

/-! ## After FINAL -/

/-- On a finished message no command but INIT writes more than ERR, ERRCODE and Y: PUSH and FINAL are refused
(44 R224). -/
theorem exec_finished {i : Instr} {s : State} (hi : i ≠ .init) (hm : s.mode = .finished) :
    ∃ e k y, exec i s = .next ((s.withError e k).withY y) := by
  obtain rfl | rfl | ⟨n, rfl⟩ | rfl | hAlu := instr_kind_cases i
  · exact ⟨s.err, s.errcode, s.y, exec_nop s⟩
  · exact absurd rfl hi
  · cases herr : s.err with
    | true => exact ⟨s.err, s.errcode, s.y, execPush_of_err herr⟩
    | false => exact ⟨true, .sequence, s.y, execPush_of_finished herr hm⟩
  · cases herr : s.err with
    | true => exact ⟨s.err, s.errcode, s.y, execFinal_of_err herr⟩
    | false => exact ⟨true, .sequence, s.y, execFinal_of_finished herr hm⟩
  · exact ⟨s.err, s.errcode, _, exec_alu hAlu s⟩

theorem performCommand_keeps_finished {c : Command} {s t : State} (hc : c.isInit = false) (hm : s.mode = .finished)
    (ht : performCommand c s = .next t) : t.h = s.h ∧ t.mode = .finished := by
  cases hd : decode c.cmd with
  | illegal why =>
    cases (performCommand_illegal s hd).symm.trans ht
    exact ⟨rfl, hm⟩
  | instr i =>
    have hi : i ≠ .init := by
      rintro rfl
      simp [Command.isInit, hd] at hc
    obtain ⟨e, k, y, hu⟩ := exec_finished (s := s.withHs (.running c 0)) hi hm
    cases (performCommand_instr hd hu).symm.trans ht
    exact ⟨rfl, hm⟩

/-- Settles O35: each command of the run keeps H and MODE, and the digest is H. -/
theorem finishedDigestStays : Obligations.FinishedDigestStays := by
  unfold Obligations.FinishedDigestStays
  intro cs s hm hcs
  obtain ⟨t, hrun, hh, hmode⟩ := runCommands_keeps (P := fun t => t.h = s.h ∧ t.mode = .finished)
    (fun c hc u t ⟨hh, hmode⟩ ht =>
      have ⟨hh', hmode'⟩ := performCommand_keeps_finished (hcs c hc) hmode ht
      ⟨hh'.trans hh, hmode'⟩) ⟨rfl, hm⟩
  exact ⟨t, hrun, hh, congrArg digestOf hh, hmode⟩

/-! ## After INIT -/

/-- A command accepted in two states at the same point of a message leaves them so, both ready. -/
theorem performCommand_sameMessage {s t : State} (c : Command) (h : s.sameMessage t) :
    ∃ s' t' : State, performCommand c s = .next (s'.withHs .idle) ∧ performCommand c t = .next (t'.withHs .idle) ∧
      s'.sameMessage t' := by
  cases hd : decode c.cmd with
  | illegal why =>
    have ⟨_, _, _, _, herr, hcode, _⟩ := h
    refine ⟨s.withError true _, t.withError true _, performCommand_illegal s hd, performCommand_illegal t hd, ?_⟩
    rw [herr, hcode]
    exact sameMessage_withError h true _
  | instr i =>
    have hrunning : (s.withHs (.running c 0)).sameMessage (t.withHs (.running c 0)) := h
    have hops (port : Command → Word) := sampled_congr (s := s.withHs (.running c 0)) (t := t.withHs (.running c 0))
      port rfl
    obtain ⟨s', t', hs, ht, hsame, -⟩ := sameOutcome_exec i hrunning (hops _) (hops _) (hops _)
    exact ⟨s', t', performCommand_instr hd hs, performCommand_instr hd ht, hsame⟩

/-- Two ready states at the same point of a message are so again after the same commands. -/
theorem runCommands_sameMessage (cs : List Command) {s t : State} (h : s.sameMessage t) :
    ∃ s' t' : State, runCommands cs (s.withHs .idle) = .next (s'.withHs .idle) ∧
      runCommands cs (t.withHs .idle) = .next (t'.withHs .idle) ∧ s'.sameMessage t' := by
  induction cs generalizing s t with
  | nil => exact ⟨s, t, rfl, rfl, h⟩
  | cons c cs ih =>
    obtain ⟨u, v, hu, hv, huv⟩ := performCommand_sameMessage (s := s.withHs .idle) (t := t.withHs .idle) c h
    rw [runCommands_cons_of_next cs hu, runCommands_cons_of_next cs hv]
    exact ih huv

/-- The status word shows MODE, ERR, ERRCODE and BUSY (10 R35). -/
theorem status_eq_of_sameMessage {s t : State} (h : s.sameMessage t) (hbusy : s.busy = t.busy) :
    s.status = t.status := by
  obtain ⟨-, -, -, hmode, herr, hcode, -⟩ := h
  simp only [State.status, State.done, hmode, herr, hcode, hbusy]

/-- Settles O38: INIT brings any two states to the same point, and the commands after it keep them there. -/
theorem initForgetsEarlierMessages : Obligations.InitForgetsEarlierMessages := by
  unfold Obligations.InitForgetsEarlierMessages
  intro c cs s t hc
  have hd : decode c.cmd = .instr .init := eq_of_beq hc
  have hinit (s : State) := performCommand_instr (s := s) hd (exec_init _)
  obtain ⟨s', t', hs, ht, hsame⟩ :=
    runCommands_sameMessage cs (sameMessage_startMessage (s.withHs (.running c 0)) (t.withHs (.running c 0)))
  have hready : (s'.withHs .idle).sameMessage (t'.withHs .idle) := hsame
  obtain ⟨hh, -⟩ := hsame
  exact ⟨_, _, (runCommands_cons_of_next cs (hinit s)).trans hs, (runCommands_cons_of_next cs (hinit t)).trans ht,
    hready, congrArg digestOf hh, status_eq_of_sameMessage hready rfl⟩

/-! ## PUSHes -/

theorem withHs_withHs (s : State) (v w : Handshake) : (s.withHs v).withHs w = s.withHs w := (rfl)

theorem bytes_of_decode {c : Command} {n : Nat} (h : decode c.cmd = .instr (.push n)) :
    c.bytes = laneBytes n c.a := by
  rw [Command.bytes, h]

@[simp] theorem pushedBytes_nil : pushedBytes [] = [] := rfl

@[simp] theorem pushedBytes_cons (c : Command) (cs : List Command) :
    pushedBytes (c :: cs) = c.bytes ++ pushedBytes cs := rfl

theorem exists_push_of_isPush {c : Command} (h : c.isPush = true) : ∃ n, decode c.cmd = .instr (.push n) := by
  unfold Command.isPush at h
  split at h
  · exact ⟨_, ‹_›⟩
  · cases h

/-- A PUSH whose bytes fit in a message in progress absorbs them, and the core is ready (41 R150). -/
theorem performCommand_push {c : Command} {n : Nat} {s : State} (hd : decode c.cmd = .instr (.push n))
    (herr : s.err = false) (hm : s.mode = .active) (hfits : s.l.toNat + 8 * c.bytes.length ≤ 2 ^ 64 - 1) :
    performCommand c s = .next ((s.absorb c.bytes).withHs .idle) := by
  rw [bytes_of_decode hd] at hfits ⊢
  rw [laneBytes_length] at hfits
  have hexec := execPush_of_ok (s := s.withHs (.running c 0)) herr hm hfits
  rw [opA_running (State.withHs_hs _ _), absorb_withHs] at hexec
  rw [performCommand_instr hd hexec, withHs_withHs]

/-- L after the first of several deliveries leaves room for the others. -/
theorem absorb_l_fits {bs cs : List Byte} {s : State} (h : s.l.toNat + 8 * (bs ++ cs).length ≤ 2 ^ 64 - 1) :
    (s.absorb bs).l.toNat + 8 * cs.length ≤ 2 ^ 64 - 1 := by
  rw [List.length_append] at h
  rw [absorb_l_toNat bs s (by omega)]; omega

/-- PUSHes that fit, from a ready core, absorb their bytes one delivery after the other: the split leaves no trace
(44 R227). -/
theorem runCommands_pushes {ps : List Command} {s : State} (hps : ∀ c ∈ ps, c.isPush = true) (herr : s.err = false)
    (hm : s.mode = .active) (hfits : s.l.toNat + 8 * (pushedBytes ps).length ≤ 2 ^ 64 - 1) :
    runCommands ps (s.withHs .idle) = .next ((s.absorb (pushedBytes ps)).withHs .idle) := by
  induction ps generalizing s with
  | nil => rfl
  | cons c ps ih =>
    obtain ⟨hc, hps⟩ := List.forall_mem_cons.mp hps
    obtain ⟨n, hd⟩ := exists_push_of_isPush hc
    rw [pushedBytes_cons] at hfits ⊢
    have hfirst : s.l.toNat + 8 * c.bytes.length ≤ 2 ^ 64 - 1 := by
      rw [List.length_append] at hfits; omega
    have hpush := performCommand_push (s := s.withHs .idle) hd herr hm hfirst
    rw [absorb_withHs] at hpush
    rw [runCommands_cons_of_next ps hpush, absorb_append]
    exact ih hps ((absorb_err _ s).trans herr) ((absorb_mode _ s).trans hm) (absorb_l_fits hfits)

/-- Settles O36: either run absorbs the same bytes. -/
theorem splitIndependence : Obligations.SplitIndependence := by
  unfold Obligations.SplitIndependence
  intro ps qs s hps hqs hbytes herr hm hidle hfits
  have hready : s.withHs .idle = s := by rw [← hidle]; rfl
  have hp := runCommands_pushes hps herr hm hfits
  have hq := runCommands_pushes hqs herr hm (hbytes ▸ hfits)
  rw [hready] at hp hq
  exact ⟨_, hp, hbytes ▸ hq, (absorb_err _ s).trans herr⟩

end Sys2Proof.Machine
end

section
/-! PROOF. From PUSHes to Hash (41 R144, 44 R223, R224): absorbing bytes keeps the digest that the blocks still to come
would give, FINAL folds the blocks of Tail, and together these are the blocks of Pad. -/

namespace Sys2Proof.Machine

/-! ## Blocks -/

theorem chain_append (h : HashState) (bs cs : List Block) : chain h (bs ++ cs) = chain (chain h bs) cs :=
  List.foldl_append

theorem blocksOf_toList (b : Block) : blocksOf b.toList = [b] := by
  have hblock : blockAt b.toList 0 = b := by
    ext1 i hi
    simp [blockAt_getElem, hi]
  have hcount : b.toList.length / 64 = 1 := by simp
  rw [blocksOf, hcount, List.range_one, List.map_singleton, Nat.mul_zero, hblock]

/-- A block that is complete is folded first. -/
theorem chain_blocksOf_toList_append (h : HashState) (b : Block) (ys : List Byte) :
    chain h (blocksOf (b.toList ++ ys)) = chain (blockFunction h b) (blocksOf ys) := by
  rw [blocksOf_append (q := 1) ys (by simp), blocksOf_toList]
  rfl

/-! ## Absorbing -/

/-- What H and the buffered bytes give with any bytes to come does not change when a byte is absorbed: it is either
buffered or, with the others, folded into H (41 R150). -/
theorem chain_absorbByte (b : Byte) (s : State) (ys : List Byte) :
    chain (s.absorbByte b).h (blocksOf ((s.absorbByte b).buffered ++ ys)) =
      chain s.h (blocksOf (s.buffered ++ b :: ys)) := by
  have hbytes : s.buffered ++ b :: ys = (s.buffered ++ [b]) ++ ys := by simp
  rw [hbytes]
  by_cases hfull : s.bc.toNat + 1 = 64
  · rw [absorbByte_h_full b hfull, buffered_absorbByte_full b hfull, ← toList_setByte_full b hfull,
      chain_blocksOf_toList_append, List.nil_append]
  · rw [absorbByte_h_inside b hfull, buffered_absorbByte_inside b hfull]

theorem chain_absorb (bs : List Byte) (s : State) (ys : List Byte) :
    chain (s.absorb bs).h (blocksOf ((s.absorb bs).buffered ++ ys)) =
      chain s.h (blocksOf (s.buffered ++ (bs ++ ys))) := by
  induction bs generalizing s with
  | nil => rfl
  | cons b bs ih => rw [absorb_cons, ih, chain_absorbByte, List.cons_append]

/-! ## FINAL -/

/-- FINAL folds the blocks of Tail, one or two (41 R143, R151). -/
theorem finish_h_eq_chain (s : State) : s.finish.h = chain s.h (blocksOf (tail s.buffered s.l)) := by
  have hbc := s.bc.isLt
  have hlen := tail_length s.buffered s.l (by rw [buffered_length]; omega)
  rw [buffered_length] at hlen
  rw [finish_h, blocksOf, hlen]
  split <;> rfl

/-- Pad's blocks without a cut: the message, 0x80, zero bytes and the length in blocks (41 R140, R145). -/
theorem paddedBlocks_eq_blocksOf (m : List Byte) :
    paddedBlocks m =
      blocksOf (m ++ ([0x80] ++ zeros (tailZeros (m.length % 64)) ++ be64 (BitVec.ofNat 64 (8 * m.length)))) := by
  rw [paddedBlocks, pad_messageBits, bytesOfBits_messageBits]
  simp only [List.append_assoc]

/-- From the start of a message, absorbing it and finishing gives its Hash (44 R223, R224). -/
theorem finish_absorb_h {s : State} (hs : s.messageStart) (m : List Byte) (hfits : 8 * m.length ≤ 2 ^ 64 - 1) :
    (s.absorb m).finish.h = hashOf m := by
  obtain ⟨hh, hl, hbc, -, -, -⟩ := hs
  have hl : s.l.toNat = 0 := congrArg BitVec.toNat hl
  have hbc' : s.bc.toNat = 0 := congrArg BitVec.toNat hbc
  have hcount : (s.absorb m).buffered.length = m.length % 64 := by
    rw [buffered_length, absorb_bc_toNat, hbc', Nat.zero_add]
  have hlength : (s.absorb m).l = BitVec.ofNat 64 (8 * m.length) := by
    apply BitVec.eq_of_toNat_eq
    rw [absorb_l_toNat m s (by omega), BitVec.toNat_ofNat]; omega
  rw [finish_h_eq_chain, tail, hcount, hlength, List.append_assoc, List.append_assoc, chain_absorb,
    buffered_of_bc_zero hbc, hh, hashOf, paddedBlocks_eq_blocksOf]
  simp only [List.nil_append, List.append_assoc]

/-! ## The run -/

theorem sameMessage_trans {s t u : State} (h : s.sameMessage t) (k : t.sameMessage u) : s.sameMessage u := by
  obtain ⟨hh, hl, hbc, hmode, herr, hcode, hbuf⟩ := h
  obtain ⟨kh, kl, kbc, kmode, kerr, kcode, kbuf⟩ := k
  exact ⟨hh.trans kh, hl.trans kl, hbc.trans kbc, hmode.trans kmode, herr.trans kerr, hcode.trans kcode,
    hbuf.trans kbuf⟩

theorem sameMessage_refl (s : State) : s.sameMessage s := ⟨rfl, rfl, rfl, rfl, rfl, rfl, rfl⟩

/-- The commands by which a message is delivered: PUSH, and ALU and NOP commands between (44 R224). -/
def Command.delivers (c : Command) : Prop :=
  ∃ i, decode c.cmd = .instr i ∧ (i = .nop ∨ i.isAlu = true ∨ ∃ n, i = .push n)

/-- A NOP or an ALU command delivers no bytes. -/
theorem bytes_eq_nil {c : Command} {i : Instr} (h : decode c.cmd = .instr i) (hi : i = .nop ∨ i.isAlu = true) :
    c.bytes = [] := by
  rw [Command.bytes, h]
  cases i with
  | push n => simp [Instr.isAlu] at hi
  | _ => rfl

/-- Each delivering command absorbs its bytes, as far as the message is concerned. -/
theorem performCommand_delivers {c : Command} {s : State} (hc : c.delivers) (herr : s.err = false)
    (hm : s.mode = .active) (hfits : s.l.toNat + 8 * c.bytes.length ≤ 2 ^ 64 - 1) :
    ∃ t, performCommand c s = .next t ∧ t.sameMessage (s.absorb c.bytes) := by
  obtain ⟨i, hd, rfl | hAlu | ⟨n, rfl⟩⟩ := hc
  · rw [bytes_eq_nil hd (.inl rfl)]
    exact ⟨_, performCommand_instr hd (exec_nop _), sameMessage_refl s⟩
  · rw [bytes_eq_nil hd (.inr hAlu)]
    exact ⟨_, performCommand_alu s hd hAlu, sameMessage_refl s⟩
  · exact ⟨_, performCommand_push hd herr hm hfits, sameMessage_refl (s.absorb c.bytes)⟩

theorem runCommands_delivers {cs : List Command} {s : State} (hcs : ∀ c ∈ cs, c.delivers) (herr : s.err = false)
    (hm : s.mode = .active) (hfits : s.l.toNat + 8 * (pushedBytes cs).length ≤ 2 ^ 64 - 1) :
    ∃ t, runCommands cs s = .next t ∧ t.sameMessage (s.absorb (pushedBytes cs)) := by
  induction cs generalizing s with
  | nil => exact ⟨s, rfl, sameMessage_refl s⟩
  | cons c cs ih =>
    obtain ⟨hc, hcs⟩ := List.forall_mem_cons.mp hcs
    rw [pushedBytes_cons] at hfits ⊢
    have hfirst : s.l.toNat + 8 * c.bytes.length ≤ 2 ^ 64 - 1 := by
      rw [List.length_append] at hfits; omega
    obtain ⟨u, hu, hsame⟩ := performCommand_delivers hc herr hm hfirst
    have ⟨_, hl, _, hmode, huerr, _, _⟩ := hsame
    have hrest := absorb_l_fits hfits
    rw [← hl] at hrest
    obtain ⟨t, ht, hsame'⟩ := ih hcs (huerr.trans ((absorb_err _ s).trans herr))
      (hmode.trans ((absorb_mode _ s).trans hm)) hrest
    rw [runCommands_cons_of_next cs hu, absorb_append]
    exact ⟨t, ht, sameMessage_trans hsame' (sameMessage_absorb hsame _)⟩

/-- FINAL of a message in progress finishes it, and the core is ready. -/
theorem performCommand_final {f : Command} {s : State} (hd : decode f.cmd = .instr .final) (herr : s.err = false)
    (hm : s.mode = .active) :
    performCommand f s = .next ((s.withHs (.running f 0)).finish.withHs .idle) :=
  performCommand_instr hd (execFinal_of_ok herr hm)

/-- Settles O34: the run before FINAL absorbs the message, and FINAL makes its Hash. -/
theorem hashEndToEnd : Obligations.HashEndToEnd := by
  unfold Obligations.HashEndToEnd
  intro cs f s hs hcs hfits hf
  have ⟨_, hl, _, hm, herr, _⟩ := hs
  have hl : s.l.toNat = 0 := congrArg BitVec.toNat hl
  obtain ⟨u, hu, hsame⟩ := runCommands_delivers hcs herr hm (by omega)
  have ⟨_, _, _, hmode, huerr, _, _⟩ := hsame
  have huerr : u.err = false := huerr.trans ((absorb_err _ s).trans herr)
  have hfinal := performCommand_final hf huerr (hmode.trans ((absorb_mode _ s).trans hm))
  have hsame' : (u.withHs (.running f 0)).sameMessage (s.absorb (pushedBytes cs)) := hsame
  obtain ⟨hh, -⟩ := sameMessage_finish hsame'
  rw [finish_absorb_h hs _ hfits] at hh
  exact ⟨_, (runCommands_append_of_next [f] hu).trans (runCommands_singleton hfinal), hh, rfl,
    (finish_err _).trans huerr, congrArg digestOf hh, by simp [State.digestValid, State.done, State.busy, huerr]⟩

/-! ## Known answers -/

/-- Settles O33: both messages are one block with their padding, evaluated. -/
theorem knownAnswers : Obligations.KnownAnswers := by
  unfold Obligations.KnownAnswers
  exact ⟨by decide +kernel, by decide +kernel⟩

end Sys2Proof.Machine
end

section
/-! PROOF. NOP and INIT (44 R221, R222). -/

namespace Sys2Proof.Machine

/-- OPC and the reserved field of format N are the whole word, so 0 in both is the word 0. -/
theorem reservedN_ne_zero {w : Word} (hopc : opcField w = 0) (hw : w ≠ 0) : reservedN w ≠ 0 := by
  intro hres
  apply hw
  rw [← eq_encodeN hres, hopc]
  rfl

/-- Settles O11: NOP's word and its effect; another word with OPC = 0 has a reserved bit set. -/
theorem nopChangesNothing : Obligations.NopChangesNothing := by
  unfold Obligations.NopChangesNothing
  refine ⟨decode_encode (i := .nop) rfl, exec_nop, fun w hopc hw => ?_⟩
  have hopc : (opcField w).toNat = 0 := (opcField_toNat w).trans hopc
  exact (decode_illegal_iff w).mpr (.inr (.inl ⟨.inl hopc, reservedN_ne_zero (eq_ofNat_of_toNat_eq hopc) hw⟩))

/-- A command other than INIT keeps an error: PUSH and FINAL do nothing, the others do not write ERR (60 R253, R254). -/
theorem exec_keeps_error {i : Instr} {s t : State} (hi : i ≠ .init) (herr : s.err = true) (ht : exec i s = .next t) :
    t.err = true := by
  obtain rfl | rfl | ⟨n, rfl⟩ | rfl | hAlu := instr_kind_cases i
  · cases (exec_nop s).symm.trans ht
    exact herr
  · exact absurd rfl hi
  · cases (execPush_of_err (n := n) herr).symm.trans ht
    exact herr
  · cases (execFinal_of_err herr).symm.trans ht
    exact herr
  · cases (exec_alu hAlu s).symm.trans ht
    exact herr

/-- Settles O12: INIT's word and its effect, which the reset state already has; no other command leaves an error. -/
theorem initStartsAMessage : Obligations.InitStartsAMessage := by
  unfold Obligations.InitStartsAMessage
  refine ⟨decode_encode (i := .init) rfl, fun s => by rw [exec_init, startMessage_eq], exec_init _,
    fun i s t ht herr hclear => ?_⟩
  by_contra hi
  rw [exec_keeps_error hi herr ht] at hclear
  cases hclear

end Sys2Proof.Machine
end

section
/-! PROOF. The command port at one edge and over several (44 R228 to R233): acceptance, waiting and completion. -/

namespace Sys2Proof.Machine

/-! ## Completion -/

/-- Settles O42: the operands are those of the pending command, and its effect is the decoded command's. -/
theorem stepRunsTheDecodedCommand : Obligations.StepRunsTheDecodedCommand := by
  unfold Obligations.StepRunsTheDecodedCommand
  intro s c hpending hrst
  have hs := step_running_zero hrst hpending
  refine ⟨⟨opA_running hpending, opB_running hpending, opC_running hpending⟩, fun i t hd ht => ?legal,
    fun why hd => ?illegal⟩
  case legal =>
    rw [hs, completeCommand, dispatch_instr _ hd, ht]
    rfl
  case illegal =>
    rw [hs, completeCommand, dispatch_illegal _ hd]
    rfl

/-! ## Acceptance -/

theorem hs_idle_iff_cmdReady (s : State) : s.cmdReady = true ↔ s.hs = .idle := by
  unfold State.cmdReady State.busy
  cases s.hs <;> simp

/-- Settles O43: the two cases of acceptance. -/
theorem readyCoreAcceptsTheCommand : Obligations.ReadyCoreAcceptsTheCommand := by
  unfold Obligations.ReadyCoreAcceptsTheCommand
  intro s hready hrst hvalid
  rw [step_idle_valid hrst ((hs_idle_iff_cmdReady s).mp hready) hvalid]
  exact acceptCommand_cases s.portIn.command s.advanceHost

theorem advanceHost_hs (s : State) : s.advanceHost.hs = s.hs := (rfl)

/-- An edge that accepts nothing looks at `rst` alone of the ports (44 R228, R233). -/
theorem step_congr_of_not_accepting {s t : State} (hadv : s.advanceHost = t.advanceHost)
    (hrst : s.portIn.rst = t.portIn.rst)
    (h : s.hs ≠ .idle ∨ s.portIn.rst = true ∨ (s.portIn.cmdValid = false ∧ t.portIn.cmdValid = false)) :
    step s = step t := by
  have hhs : s.hs = t.hs := by rw [← advanceHost_hs s, hadv, advanceHost_hs]
  cases hr : s.portIn.rst
  case true => rw [step_reset hr, step_reset (hrst ▸ hr), hadv]
  have hr' : t.portIn.rst = false := hrst ▸ hr
  cases hc : s.hs with
  | inReset => rw [step_inReset hr hc, step_inReset hr' (hhs ▸ hc), hadv]
  | releasing n =>
    cases n with
    | zero => rw [step_releasing_zero hr hc, step_releasing_zero hr' (hhs ▸ hc), hadv]
    | succ n => rw [step_releasing_succ hr hc, step_releasing_succ hr' (hhs ▸ hc), hadv]
  | running c n =>
    cases n with
    | zero => rw [step_running_zero hr hc, step_running_zero hr' (hhs ▸ hc), hadv]
    | succ n => rw [step_running_succ hr hc, step_running_succ hr' (hhs ▸ hc), hadv]
  | idle =>
    obtain hbusy | hreset | ⟨hv, hv'⟩ := h
    · exact absurd hc hbusy
    · simp [hr] at hreset
    · rw [step_idle_quiet hr hc hv, step_idle_quiet hr' (hhs ▸ hc) hv', hadv]

/-- Settles O44: the two states differ in the ports of this edge alone. -/
theorem portsIgnoredUnlessAccepting : Obligations.PortsIgnoredUnlessAccepting := by
  unfold Obligations.PortsIgnoredUnlessAccepting
  intro s p q rest hrst h
  refine step_congr_of_not_accepting rfl hrst (h.imp_left fun hbusy hidle => ?_)
  rw [(hs_idle_iff_cmdReady s).mpr hidle] at hbusy
  cases hbusy

/-! ## Waiting -/

/-- The state in which the command `c` has waited for k edges of n. -/
def State.waiting (c : Command) (n k : Nat) (s : State) : State :=
  { s with hs := .running c (n - k), host := s.host.drop k }

/-- No reset at any of the next n edges, whether the host's list has an input for it or not. -/
theorem waiting_rst {c : Command} {m n k : Nat} {s : State} (h : s.noReset n) (hk : k < n) :
    (s.waiting c m k).portIn.rst = false := by
  have hport : (s.waiting c m k).portIn = s.host[k]?.getD PortIn.quiet := by
    rw [State.portIn, State.waiting, List.headD_eq_head?_getD, List.head?_drop]
  rw [hport]
  cases hget : s.host[k]? with
  | none => rfl
  | some p => exact h p (List.mem_of_getElem? ((List.getElem?_take_of_lt hk).trans hget))

theorem advanceHost_waiting (c : Command) (n k : Nat) (s : State) :
    (s.waiting c n k).advanceHost = { s with hs := .running c (n - k), host := s.host.drop (k + 1) } := by
  rw [← List.tail_drop]
  rfl

/-- An edge before the last only counts (44 R229). -/
theorem step_waiting {c : Command} {n k : Nat} {s : State} (h : s.noReset (n + 1)) (hk : k < n) :
    step (s.waiting c n k) = .next (s.waiting c n (k + 1)) := by
  have hleft : (s.waiting c n k).hs = .running c (n - (k + 1) + 1) := by
    rw [show n - (k + 1) + 1 = n - k by omega]; rfl
  rw [step_running_succ (waiting_rst h (by omega)) hleft, advanceHost_waiting]
  rfl

theorem run_waiting {c : Command} {n k : Nat} {s : State} (hs : s.hs = .running c n) (h : s.noReset (n + 1))
    (hk : k ≤ n) : Host.Core.run core k s = .next (s.waiting c n k) := by
  induction k with
  | zero =>
    have hstart : s.waiting c n 0 = s := by rw [State.waiting, Nat.sub_zero, ← hs]; rfl
    rw [hstart]
    rfl
  | succ k ih => exact (run_add_one (ih (by omega))).trans (step_waiting h hk)

/-- Settles O45: the edges before the last only count, and the last completes the command. -/
theorem acceptedCommandCompletes : Obligations.AcceptedCommandCompletes := by
  unfold Obligations.AcceptedCommandCompletes
  intro n c s hs h
  refine ⟨fun k hk => run_waiting hs h hk, (run_add_one (run_waiting hs h le_rfl)).trans ?_⟩
  have hlast : (s.waiting c n n).hs = .running c 0 := by rw [← Nat.sub_self n]; rfl
  have hstep := step_running_zero (waiting_rst h (Nat.lt_succ_self n)) hlast
  rw [advanceHost_waiting, Nat.sub_self] at hstep
  exact hstep

end Sys2Proof.Machine
end

section
/-! PROOF. The error record (60 R251 to R255): what a command that raises an error does, what every command and every
edge does while ERR = 1, and the order of the checks. -/

namespace Sys2Proof.Machine

/-! ## Every command and every edge goes on -/

/-- Every edge gives a next state: a command that completes at it does so from every state (44 R231). -/
theorem step_next (s : State) : ∃ t, step s = .next t := by
  obtain ⟨-, h⟩ | ⟨c, -, -, h⟩ | ⟨-, -, -, h⟩ | ⟨-, _, _, h⟩ := step_cases s
  · exact ⟨_, h⟩
  · obtain ⟨t, ht⟩ := completeCommand_next c s.advanceHost
    exact ⟨_, h.trans ht⟩
  · obtain ⟨t, ht⟩ := completeCommand_next s.portIn.command
      ((s.advanceHost.withFresh (s.fresh + 1)).withHs (.running s.portIn.command 0))
    exact ⟨_, h.trans ht⟩
  · exact ⟨_, h⟩

/-- Settles O50: a next state for each kind of command, and for each case of one edge. -/
theorem everyStepGoesOn : Obligations.EveryStepGoesOn := by
  unfold Obligations.EveryStepGoesOn
  exact ⟨exec_next, step_next⟩

/-- Settles O6: the two cases of `raise`; completion always leaves the core ready. -/
theorem raiseKeepsTheFirstError : Obligations.RaiseKeepsTheFirstError := by
  unfold Obligations.RaiseKeepsTheFirstError
  refine ⟨fun _ code herr => raiseError_of_no_err code herr, fun _ code herr => raiseError_of_err code herr,
    fun c s => ?_⟩
  obtain ⟨t, ht⟩ := completeCommand_next c (s.withHs (.running c 0))
  exact ⟨t.withHs .idle, ht, rfl⟩

/-! ## Commands that raise an error -/

/-- A command either records an error and does nothing else, or it raises none (60 R252). -/
theorem exec_error_cases (i : Instr) (s : State) :
    (∃ code, code ≠ .noError ∧ exec i s = .next (s.withError true code)) ∨
    ∃ t, exec i s = .next t ∧ (t.err = true → s.err = true) := by
  obtain rfl | rfl | ⟨n, rfl⟩ | rfl | hAlu := instr_kind_cases i
  · exact .inr ⟨_, exec_nop s, id⟩
  · exact .inr ⟨_, exec_init s, by simp⟩
  · obtain ⟨-, h⟩ | ⟨-, -, h⟩ | ⟨-, -, -, h⟩ | ⟨-, -, -, h⟩ := execPush_cases n s
    · exact .inr ⟨_, h, id⟩
    · exact .inl ⟨.sequence, by decide, h⟩
    · exact .inl ⟨.length, by decide, h⟩
    · exact .inr ⟨_, h, by simp⟩
  · obtain ⟨-, h⟩ | ⟨-, -, h⟩ | ⟨-, -, h⟩ := execFinal_cases s
    · exact .inr ⟨_, h, id⟩
    · exact .inl ⟨.sequence, by decide, h⟩
    · exact .inr ⟨_, h, by simp⟩
  · exact .inr ⟨_, exec_alu hAlu s, id⟩

/-- Settles O7: an illegal word only records ILLEGAL; a legal command whose state has a new error only recorded it. -/
theorem raisingCommandHasNoOtherEffect : Obligations.RaisingCommandHasNoOtherEffect := by
  unfold Obligations.RaisingCommandHasNoOtherEffect
  refine ⟨fun c s t herr ht hraised => ?_, fun c s why => performCommand_illegal s⟩
  cases hd : decode c.cmd with
  | illegal why =>
    cases (performCommand_illegal s hd).symm.trans ht
    exact ⟨rfl, by simp [herr]⟩
  | instr i =>
    obtain ⟨code, hcode, hexec⟩ | ⟨u, hexec, hnew⟩ := exec_error_cases i (s.withHs (.running c 0))
    · cases (performCommand_instr hd hexec).symm.trans ht
      exact ⟨rfl, hcode⟩
    · cases (performCommand_instr hd hexec).symm.trans ht
      have hold : s.err = true := hnew hraised
      simp [herr] at hold

/-- A legal command that does nothing: BUSY falls. -/
theorem performCommand_of_exec_nothing {c : Command} {i : Instr} {s : State} (hd : decode c.cmd = .instr i)
    (h : exec i (s.withHs (.running c 0)) = .next (s.withHs (.running c 0))) :
    performCommand c s = .next { s with hs := .idle } :=
  performCommand_instr (t := s.withHs (.running c 0)) hd h

/-- A legal command that only records an error: BUSY falls. -/
theorem performCommand_of_exec_error {c : Command} {i : Instr} {s : State} {code : ErrCode}
    (hd : decode c.cmd = .instr i)
    (h : exec i (s.withHs (.running c 0)) = .next ((s.withHs (.running c 0)).withError true code)) :
    performCommand c s = .next { s with hs := .idle, err := true, errcode := code } :=
  performCommand_instr hd h

/-- Settles O8: the decoder's answer first, then the cases of PUSH and FINAL in the order of their checks. -/
theorem checksInPriorityOrder : Obligations.ChecksInPriorityOrder := by
  unfold Obligations.ChecksInPriorityOrder
  refine fun c s => ⟨fun why hd => ?illegal, ?gated, fun n hd herr hmode hlong => ?length⟩
  case illegal =>
    rw [performCommand_illegal s hd, raiseError_frame]
    rfl
  case gated =>
    rintro (hd | ⟨n, hd⟩)
    · exact ⟨fun herr => performCommand_of_exec_nothing hd (execFinal_of_err herr),
        fun herr hmode => performCommand_of_exec_error hd (execFinal_of_finished herr hmode)⟩
    · exact ⟨fun herr => performCommand_of_exec_nothing hd (execPush_of_err herr),
        fun herr hmode => performCommand_of_exec_error hd (execPush_of_finished herr hmode)⟩
  case length => exact performCommand_of_exec_error hd (execPush_of_long herr hmode hlong)

/-! ## While ERR = 1 -/

/-- While ERR = 1 no command but INIT writes more than Y: PUSH and FINAL do nothing (60 R253). -/
theorem exec_of_err {i : Instr} {s : State} (hi : i ≠ .init) (herr : s.err = true) :
    ∃ y, exec i s = .next (s.withY y) := by
  obtain rfl | rfl | ⟨n, rfl⟩ | rfl | hAlu := instr_kind_cases i
  · exact ⟨s.y, exec_nop s⟩
  · exact absurd rfl hi
  · exact ⟨s.y, execPush_of_err herr⟩
  · exact ⟨s.y, execFinal_of_err herr⟩
  · exact ⟨_, exec_alu hAlu s⟩

/-- While ERR = 1 a command that completes is INIT, or writes no more than Y and the handshake: an illegal word finds
an error recorded (60 R251). -/
theorem completeCommand_of_err (c : Command) {s : State} (herr : s.err = true) :
    (c.isInit = true ∧ completeCommand c s = .next (s.startMessage.withHs .idle)) ∨
    ∃ y, completeCommand c s = .next ((s.withY y).withHs .idle) := by
  unfold completeCommand
  cases hd : decode c.cmd with
  | illegal why =>
    exact .inr ⟨s.y, by rw [dispatch_illegal s hd, raiseError_of_err _ herr]; rfl⟩
  | instr i =>
    rw [dispatch_instr s hd]
    by_cases hi : i = .init
    · subst hi
      exact .inl ⟨by simp [Command.isInit, hd], by rw [exec_init, clearPending_next]⟩
    · obtain ⟨y, hy⟩ := exec_of_err hi herr
      exact .inr ⟨y, by rw [hy, clearPending_next]⟩

/-- An INIT is at its last edge, or is offered to a ready core. -/
def State.initDue (s : State) : Prop :=
  ∃ c : Command, c.isInit = true ∧
    (s.hs = .running c 0 ∨ (s.hs = .idle ∧ s.portIn.cmdValid = true ∧ c = s.portIn.command))

/-- What an edge can do while ERR = 1: reset, complete an INIT, or keep the error record and MODE (60 R253, R254). -/
theorem step_of_err {s : State} (herr : s.err = true) :
    (s.portIn.rst = true ∧ step s = .next s.advanceHost.resetEdge) ∨
    (s.initDue ∧ ∃ t, step s = .next t ∧ t.mode = .active) ∨
    ∃ t, step s = .next t ∧ t.err = true ∧ t.errcode = s.errcode ∧ t.mode = s.mode := by
  obtain h | ⟨c, -, hc, hs⟩ | ⟨-, hidle, hvalid, hs⟩ | ⟨-, _, _, hs⟩ := step_cases s
  · exact .inl h
  · obtain ⟨hinit, ht⟩ | ⟨y, ht⟩ := completeCommand_of_err (s := s.advanceHost) c herr
    · exact .inr (.inl ⟨⟨c, hinit, .inl hc⟩, _, hs.trans ht, rfl⟩)
    · exact .inr (.inr ⟨_, hs.trans ht, herr, rfl, rfl⟩)
  · obtain ⟨hinit, ht⟩ | ⟨y, ht⟩ := completeCommand_of_err s.portIn.command
      (s := (s.advanceHost.withFresh (s.fresh + 1)).withHs (.running s.portIn.command 0)) herr
    · exact .inr (.inl ⟨⟨_, hinit, .inr ⟨hidle, hvalid, rfl⟩⟩, _, hs.trans ht, rfl⟩)
    · exact .inr (.inr ⟨_, hs.trans ht, herr, rfl, rfl⟩)
  · exact .inr (.inr ⟨_, hs, herr, rfl, rfl⟩)

/-- Settles O9: by the three cases of an edge while ERR = 1; INIT and reset write both registers. -/
theorem onlyInitAndResetClearTheError : Obligations.OnlyInitAndResetClearTheError := by
  unfold Obligations.OnlyInitAndResetClearTheError
  refine ⟨fun s t ht herr => ?edge, fun s => ⟨_, exec_init s, startMessage_err s, startMessage_errcode s⟩,
    fun s hrst => ⟨_, step_reset hrst, rfl, rfl⟩, fun i s t ht herr hclear => ?command⟩
  case edge =>
    obtain ⟨hrst, -⟩ | ⟨hinit, -⟩ | ⟨u, hu, huerr, hucode, -⟩ := step_of_err herr
    · exact .inr (.inl hrst)
    · exact .inr (.inr hinit)
    · cases hu.symm.trans ht
      exact .inl ⟨huerr, hucode⟩
  case command =>
    by_cases hi : i = .init
    · subst hi
      cases (exec_init s).symm.trans ht
      exact ⟨rfl, rfl, rfl, rfl, rfl, rfl⟩
    · rw [exec_keeps_error hi herr ht] at hclear
      cases hclear

/-- DONE cannot become 1 while ERR = 1: reset and INIT leave ACTIVE, every other edge keeps MODE (60 R253). -/
theorem step_keeps_not_done {s t : State} (herr : s.err = true) (hdone : s.done = false) (ht : step s = .next t) :
    t.done = false := by
  obtain ⟨-, hu⟩ | ⟨-, u, hu, hmode⟩ | ⟨u, hu, -, -, hmode⟩ := step_of_err herr <;> cases hu.symm.trans ht
  · rfl
  · rw [State.done, hmode]; rfl
  · rw [State.done, hmode]; exact hdone

/-- Settles O10: PUSH and FINAL do nothing, so no edge makes DONE 1; the other commands do not look at the error. -/
theorem errorGatesPushAndFinal : Obligations.ErrorGatesPushAndFinal := by
  unfold Obligations.ErrorGatesPushAndFinal
  refine ⟨fun _ _ herr => execPush_of_err herr, fun _ herr => execFinal_of_err herr,
    fun _ _ => step_keeps_not_done, ?normal⟩
  case normal =>
    rintro i s (rfl | rfl | hAlu)
    · exact ⟨_, exec_init _, exec_init s⟩
    · exact ⟨_, exec_nop _, exec_nop s⟩
    · have hi : i ≠ .init := by rintro rfl; cases hAlu
      refine ⟨_, exec_alu hAlu _, ?_⟩
      rw [if_neg hi]
      exact exec_alu hAlu s

end Sys2Proof.Machine
end

section
/-! PROOF. Reset (70 R280, R281): the values a reset edge sets, and the edges of BUSY after its release. -/

namespace Sys2Proof.Machine

/-! ## The reset values -/

theorem reset_messageStart : State.reset.messageStart := ⟨rfl, rfl, rfl, rfl, rfl, rfl⟩

/-- Settles O48: the values of the reset state, and the table of 10 R21. -/
theorem resetStateValues : Obligations.ResetStateValues := by
  unfold Obligations.ResetStateValues
  exact ⟨reset_messageStart, rfl, rfl, rfl, rfl, rfl⟩

/-- Settles O53: a reset edge from the reset state leads back to it, and every reset edge sets up the invariant. -/
theorem resetMeetsTheInvariant : Obligations.ResetMeetsTheInvariant := by
  unfold Obligations.ResetMeetsTheInvariant
  exact inv_resetEdge State.reset

/-- Settles O46: an edge with `rst = 1` takes the reset state but for the host's list and the counter. -/
theorem resetEdgeSetsTheResetValues : Obligations.ResetEdgeSetsTheResetValues := by
  unfold Obligations.ResetEdgeSetsTheResetValues
  intro s hrst
  obtain ⟨hh, hl, hbc, hmode, herr, hcode⟩ := reset_messageStart
  exact ⟨s.advanceHost.resetEdge, step_reset hrst, hh, hl, hbc, hmode, herr, hcode, rfl, rfl, rfl, rfl, rfl, rfl⟩

/-! ## The ports of a state with the reset values -/

/-- The state has the reset values, and the host drives no reset at any coming edge. -/
structure State.AfterReset (s : State) : Prop where
  message_start : s.messageStart
  y_zero : s.y = 0
  rst_low : ∀ p ∈ s.host, p.rst = false

/-- What the ports show of the reset values while BUSY is as given (70 R281). -/
def State.showsReset (s : State) (busy : Bool) : Prop :=
  s.status = (if busy then 0x00000001 else 0x00000000) ∧ s.digest = digestOf iv ∧ s.yPort = 0 ∧ s.cmdReady = !busy

/-- At the start of a message `status` shows BUSY alone (10 R35). -/
theorem status_of_messageStart {s : State} (h : s.messageStart) :
    s.status = if s.busy then 0x00000001 else 0x00000000 := by
  obtain ⟨-, -, -, hmode, herr, hcode⟩ := h
  rw [State.status, State.done, hmode, herr, hcode]
  cases s.busy <;> decide

section
variable {s : State} (h : s.AfterReset)
include h

theorem State.AfterReset.showsReset : s.showsReset s.busy := by
  obtain ⟨hh, -⟩ := h.message_start
  exact ⟨status_of_messageStart h.message_start, congrArg digestOf hh, h.y_zero, rfl⟩

/-- The coming edge is none with `rst = 1`, whether the host's list has an input for it or not. -/
theorem State.AfterReset.portIn_rst : s.portIn.rst = false := by
  have hlow := h.rst_low
  unfold State.portIn
  cases hhost : s.host with
  | nil => rfl
  | cons p rest => exact hlow p (by simp [hhost])

/-- The reset values stay at an edge that moves only the handshake, the host's list and the counter. -/
theorem State.AfterReset.wait (v : Handshake) (fresh : Nat) :
    ((s.advanceHost.withHs v).withFresh fresh).AfterReset where
  message_start := h.message_start
  y_zero := h.y_zero
  rst_low := fun p hp => h.rst_low p (List.mem_of_mem_tail hp)

end

/-! ## The edges after the release -/

/-- BUSY stays for T edges more and falls at the next one; the ports show the reset values all the while, and the core
is then ready with nothing else changed (70 R281). -/
def State.releasesIn (s : State) (T : Nat) : Prop :=
  (∀ k ≤ T, ∃ t : State, Host.Core.run core k s = .next t ∧ t.showsReset true) ∧
  ∃ t : State, Host.Core.run core (T + 1) s = .next t ∧ t.showsReset false ∧
    t = { s with hs := .idle, host := s.host.drop (T + 1), fresh := t.fresh }

section
variable {s : State} (h : s.AfterReset) (hbusy : s.busy = true)
include h hbusy

/-- BUSY falls at the coming edge. -/
theorem releasesIn_zero {fresh : Nat} (hs : step s = .next ((s.advanceHost.withHs .idle).withFresh fresh)) :
    s.releasesIn 0 := by
  refine ⟨fun k hk => ?_, _, (run_one (M := core) s).trans hs, (h.wait .idle fresh).showsReset, ?_⟩
  · obtain rfl := Nat.le_zero.mp hk
    exact ⟨s, rfl, hbusy ▸ h.showsReset⟩
  · rw [Nat.zero_add, List.drop_one]
    rfl

/-- One edge more before BUSY falls. -/
theorem releasesIn_succ {v : Handshake} {fresh T : Nat}
    (hs : step s = .next ((s.advanceHost.withHs v).withFresh fresh))
    (hrest : ((s.advanceHost.withHs v).withFresh fresh).releasesIn T) : s.releasesIn (T + 1) := by
  have hrun (k : Nat) := run_succ_of_next (M := core) k hs
  obtain ⟨hwait, t, ht, hports, hframe⟩ := hrest
  refine ⟨fun k hk => ?_, t, (hrun (T + 1)).trans ht, hports, hframe.trans ?_⟩
  · cases k with
    | zero => exact ⟨s, rfl, hbusy ▸ h.showsReset⟩
    | succ k =>
      rw [hrun k]
      exact hwait k (Nat.le_of_succ_le_succ hk)
  · rw [← List.drop_tail (l := s.host)]
    rfl

end

/-- The count of `releasing` is the number of edges that BUSY still stays (70 R281). -/
theorem releasesIn_of_releasing {n : Nat} {s : State} (h : s.AfterReset) (hhs : s.hs = .releasing n) :
    s.releasesIn n := by
  have hbusy : s.busy = true := by rw [State.busy, hhs]
  induction n generalizing s with
  | zero => exact releasesIn_zero h hbusy (fresh := s.fresh) (step_releasing_zero h.portIn_rst hhs)
  | succ n ih =>
    have hs : step s = .next ((s.advanceHost.withHs (.releasing n)).withFresh s.fresh) :=
      step_releasing_succ h.portIn_rst hhs
    exact releasesIn_succ h hbusy hs (ih (h.wait (.releasing n) s.fresh) rfl rfl)

/-- Whatever T_RST_READY is, BUSY falls after finitely many edges. -/
theorem exists_releasesIn {s : State} (h : s.AfterReset) (hhs : s.hs = .inReset) : ∃ T, s.releasesIn T := by
  have hbusy : s.busy = true := by rw [State.busy, hhs]
  have hs := step_inReset h.portIn_rst hhs
  obtain hready | ⟨n, hcount⟩ := releaseEdge_cases s.advanceHost
  · rw [hready] at hs
    exact ⟨0, releasesIn_zero h hbusy hs⟩
  · rw [hcount] at hs
    exact ⟨n + 1, releasesIn_succ h hbusy hs (releasesIn_of_releasing (h.wait _ _) rfl)⟩

/-- Settles O47: the first edge with `rst = 0` fixes the count, and every edge after it counts down. -/
theorem releaseFromReset : Obligations.ReleaseFromReset := by
  unfold Obligations.ReleaseFromReset
  intro s hstart hy hhs hlow
  obtain ⟨T, hwait, t, ht, ⟨hstatus, hdigest, hyPort, hready⟩, hframe⟩ := exists_releasesIn ⟨hstart, hy, hlow⟩ hhs
  exact ⟨T, hwait, t, ht, hstatus, hdigest, hyPort, hready, hframe⟩

end Sys2Proof.Machine
end
